-- ==== Sys2Proof/Word.lean ====
section
/-! DEFINITION. The 64-bit value of every data port (R8: `W` = 64; R9: bit 0 is the least
significant) and the two values the spec names (R12). -/

namespace Sys2Proof

/-- An operand or a result: 64 bits, bit `i` of weight 2^i (R9, R32). -/
abbrev Word := BitVec 64

/-- `INT64_MIN` (R12). -/
def int64Min : Word := 0x8000000000000000

/-- `UINT64_MAX`, all bits ones (R12). -/
def uint64Max : Word := 0xFFFFFFFFFFFFFFFF

end Sys2Proof
end

