-- ==== Sys2Proof/Syntax.lean ====
section
/-! DEFINITION. The block's operations, one constructor per row of the opcode table (R2, R42).
An operand is a full 64-bit value taken from a port as it is; there is no register number,
immediate form or mode field (R41, R43). -/

namespace Sys2Proof

/-- One operation of the block (R42). -/
inductive Instr where
  /-- `MULHS a, b`: signed high multiply, `sel` = 1 (R56). -/
  | mulhs (a b : Word)
  /-- `MULHU a, b`: unsigned high multiply, `sel` = 0 (R57). -/
  | mulhu (a b : Word)
deriving DecidableEq, Repr

end Sys2Proof
end

