-- ==== Sys2Proof/Decode.lean ====
section
/-! DEFINITION. The 129-bit command word `C = {sel, a, b}` (R44), its decoder, total on all
2^129 words (R45), its encoder, and its text: 33 hexadecimal digits, most significant first. A
number or a text that is no command word is rejected by name. -/

namespace Sys2Proof

/-- A command word (R44). -/
abbrev CommandWord := BitVec 129

/-- Why a number or a text is no command word. -/
inductive DecodeError where
  /-- The number needs more than 129 bits: its first digit of 33 is neither 0 nor 1 (R44). -/
  | tooWide
  /-- The text is not 33 characters long (R44). -/
  | wrongLength
  /-- A character is no hexadecimal digit (R44). -/
  | notHex
deriving DecidableEq, Repr

/-! ### Words -/

/-- 2^129, the number of command words (R45). -/
def wordCount : Nat := 0x200000000000000000000000000000000

/-- The operation that a select and two operands name: 1 is `MULHS`, 0 is `MULHU` (R42). -/
def instrOf (sel : Bool) (a b : Word) : Instr :=
  if sel then .mulhs a b else .mulhu a b

/-- `C = {sel, a, b}` (R44). -/
def commandWord (sel : Bool) (a b : Word) : CommandWord :=
  (BitVec.ofBool sel ++ a ++ b).cast rfl

/-- `C[128]` (R44). -/
def selField (c : CommandWord) : Bool := c.extractLsb' 128 1 == 1#1

/-- `C[127:64]` (R44). -/
def aField (c : CommandWord) : Word := c.extractLsb' 64 64

/-- `C[63:0]` (R44). -/
def bField (c : CommandWord) : Word := c.extractLsb' 0 64

/-- Decoding: read `sel` and select the operation; every word is an operation (R45). -/
def decode (c : CommandWord) : Instr :=
  instrOf (selField c) (aField c) (bField c)

/-- The command word of an operation (R42, R44). -/
def encode : Instr → CommandWord
  | .mulhs a b => commandWord true a b
  | .mulhu a b => commandWord false a b

/-- The opcode table's `mask`: only `C[128]` tells the rows apart. -/
def tableMask : CommandWord := 0x100000000000000000000000000000000#129

/-- The opcode table's `match` of an operation's row. -/
def tableMatch : Instr → CommandWord
  | .mulhs _ _ => 0x100000000000000000000000000000000#129
  | .mulhu _ _ => 0#129

/-- The operation a written number names; a number of more than 129 bits is no command word. -/
def decodeWord (n : Nat) : Except DecodeError Instr :=
  if n < wordCount then .ok (decode (BitVec.ofNat 129 n)) else .error .tooWide

/-- The number an operation's command word is. -/
def encodeWord (i : Instr) : Nat := (encode i).toNat

/-! ### Text -/

/-- The value of one hexadecimal digit, of either case (assumption 8). -/
def hexDigit (c : Char) : Option Nat :=
  if 48 ≤ c.toNat ∧ c.toNat ≤ 57 then some (c.toNat - 48)
  else if 65 ≤ c.toNat ∧ c.toNat ≤ 70 then some (c.toNat - 55)
  else if 97 ≤ c.toNat ∧ c.toNat ≤ 102 then some (c.toNat - 87)
  else none

/-- The number that hexadecimal digits write after the digits of `acc`, most significant first. -/
def hexValue (acc : Nat) : List Char → Option Nat
  | [] => some acc
  | c :: cs =>
    match hexDigit c with
    | some d => hexValue (16 * acc + d) cs
    | none => none

/-- The upper-case digit of a value below 16, as the spec's examples write it. -/
def hexChar (d : Nat) : Char :=
  if d < 10 then Char.ofNat (48 + d) else Char.ofNat (55 + d)

/-- The `k` lowest hexadecimal digits of `v`, most significant first. -/
def hexText (v : Nat) : Nat → List Char
  | 0 => []
  | k + 1 => hexChar (v / 16 ^ k % 16) :: hexText v k

/-- The number 33 hexadecimal digits write (R44). -/
def wordOfText (cs : List Char) : Except DecodeError Nat :=
  if cs.length = 33 then
    match hexValue 0 cs with
    | some n => if n < wordCount then .ok n else .error .tooWide
    | none => .error .notHex
  else .error .wrongLength

/-- The operation a command word's text names (R44, R45). -/
def decodeText (cs : List Char) : Except DecodeError Instr :=
  match wordOfText cs with
  | .ok n => decodeWord n
  | .error e => .error e

/-- A command word's text: 33 digits, most significant first (R44). -/
def encodeText (i : Instr) : List Char := hexText (encodeWord i) 33

/-- A result's text: 16 digits (R44). -/
def resultText (r : Word) : List Char := hexText r.toNat 16

/-! ### The host's question -/

/-- What the decoder reads from the `nbits` lowest bits of `w`, numbered as the opcode table numbers
them (bit 128 is `sel`); a command word is one number and has no byte order (R32). -/
def decodeTableWord (nbits w : Nat) : Option Instr :=
  (decodeWord (BitVec.ofNat nbits w).toNat).toOption

end Sys2Proof
end

