-- ==== Sys2Proof/Config.lean ====
section
/-! DEFINITION. The parameters of the model (R4, R8) and its free values
(93_implementation_defined.md I1 and I2). A free value is an opaque constant: no proof can learn it. -/

namespace Sys2Proof

/-- The parameter `CONFIG` (R4). -/
inductive Kind where
  /-- The signedness select is the port `in_sel`; the default. -/
  | unified
  /-- The select is tied to 1: the block has `MULHS` only. -/
  | signedOnly
  /-- The select is tied to 0: the block has `MULHU` only. -/
  | unsignedOnly
deriving DecidableEq, Repr

/-- The parameters the model takes (R8): the form of the block and the latency `L`. -/
structure Config where
  /-- `CONFIG` (R4). -/
  kind : Kind
  /-- `LATENCY`, written `L`: any natural number; 0 is the combinational block (R8, R20). -/
  latency : Nat
deriving DecidableEq, Repr

/-- The reference configuration: `UNIFIED` by default, `L = 0` (R4, R8). -/
def Config.reference : Config := { kind := .unified, latency := 0 }

/-- FREE VALUE: what `out_hi` shows in a cycle with `out_valid = 0` (R23, I1). The argument is the
draw number of that cycle, so that each such cycle has a draw of its own. -/
opaque Config.freeOutHi : Nat → Word

/-- FREE VALUE: what a pipeline stage holds at power-on, before the first reset (R26, I2): `Empty`
or `Full` of any value. The argument is a draw number. -/
opaque Config.powerOnStage : Nat → Option Word

end Sys2Proof
end

