-- ==== Sys2Proof/Machine/Stimulus.lean ====
section
/-! DEFINITION. What the requester, the model's second agent (R29), presents in one cycle: a
statement of the serial form (R44, R49), or a drive of the input ports themselves (R18), on which a
bit may be unknown (R52) and `out_hi` may be wired back (R106). -/

namespace Sys2Proof.Machine

/-- What a one-bit input port carries (R18, R52). -/
inductive Level where
  | low
  | high
  /-- Unknown, floating or changing within the sampling window (R52). -/
  | unknown
deriving DecidableEq, Repr

/-- What drives `in_sel` (R18, R52, R106). -/
inductive SelDrive where
  | value (sel : Bool)
  /-- Unknown, floating or changing within the sampling window (R52). -/
  | unknown
  /-- The requester wires bit `bit` of this cycle's `out_hi` to `in_sel` (R106). -/
  | outHiBit (bit : Fin 64)
deriving DecidableEq, Repr

/-- What drives a 64-bit operand port (R18, R52, R106). -/
inductive WordDrive where
  | value (v : Word)
  /-- At least one of the 64 bits is unknown, floating or changing (R52). -/
  | unknown
  /-- The requester wires this cycle's `out_hi` to the port (R106). -/
  | outHi
deriving DecidableEq, Repr

/-- The input ports of one cycle (R18). A port that the configuration does not have (`rst` when
`L = 0`, `in_sel` unless `UNIFIED`) is driven by nothing, and its field is not looked at. -/
structure PortDrive where
  rst : Level
  inValid : Level
  inSel : SelDrive
  inA : WordDrive
  inB : WordDrive
deriving DecidableEq, Repr

/-- One cycle of the requester's stream (R29, R109). -/
inductive Stimulus where
  /-- An operation in serial form: the number its trace text writes (R44). -/
  | word (n : Nat)
  /-- `IDLE`: `in_valid = 0`, `rst = 0` (R44, R49). -/
  | idle
  /-- `RESET`: `rst = 1` (R44, R49). -/
  | reset
  /-- The input ports, driven directly (R18). -/
  | ports (p : PortDrive)
deriving DecidableEq, Repr

end Sys2Proof.Machine
end

