-- ==== Sys2Proof/Machine/Operands.lean ====
section
/-! DEFINITION. How operands are read (R9, R10, R43): the two readings of a 64-bit value, the two
shifts, the extensions to 128 bits, and the effective select (R24). There is no other operand form
and no flag (R16, R41). -/

namespace Sys2Proof.Machine

/-- `uval`: the unsigned reading (R9). -/
def uval (v : Word) : Nat := v.toNat

/-- `sval`: the two's-complement reading, `uval(v) − v[63]·2^64` (R9). -/
def sval (v : Word) : Int := (v.toNat : Int) - (if v.getLsbD 63 then 18446744073709551616 else 0)

/-- `floor(n / 2^64)`: Lean's integer `/` rounds toward negative infinity when the divisor is
positive (R10). -/
def floorHigh (n : Int) : Int := n / 18446744073709551616

/-- `bits_64`: the 64-bit value congruent to an integer (R9). -/
def bits64 (n : Int) : Word := BitVec.ofInt 64 n

/-- `bits_128` (R9). -/
def bits128 (n : Int) : BitVec 128 := BitVec.ofInt 128 n

/-- Bits [127:64] of a 128-bit value (R54). -/
def highHalf (v : BitVec 128) : Word := v.extractLsb' 64 64

/-- Which shift a `>>` is (R10). -/
inductive ShiftKind where
  /-- `>>u`: logical. -/
  | logical
  /-- `>>s`: arithmetic, sign-propagating. -/
  | arithmetic
deriving DecidableEq, Repr

/-- `v >>u n` or `v >>s n` (R10). -/
def shiftRight (k : ShiftKind) (v : Word) (n : Nat) : Word :=
  match k with
  | .logical => v >>> n
  | .arithmetic => v.sshiftRight n

/-- `sext_128` (R9). -/
def sext128 (v : Word) : BitVec 128 := v.signExtend 128

/-- `zext_128` (R9). -/
def zext128 (v : Word) : BitVec 128 := v.zeroExtend 128

/-- `sel_eff`: the port when `UNIFIED`, else the tied constant (R24); nothing where the port's bit
is unknown. -/
def selEff (k : Kind) (port : Option Bool) : Option Bool :=
  match k with
  | .unified => port
  | .signedOnly => some true
  | .unsignedOnly => some false

end Sys2Proof.Machine
end

