-- ==== Sys2Proof/Machine/State.lean ====
section
/-! DEFINITION. The state of the block and its requester, the outcomes a step can stop with, and the
state after reset. The block has no register file, program counter, flag, control register or
memory (R13 to R17, R31); its state is the pipeline (R19). -/

namespace Sys2Proof.Machine

/-- The model has no fault: every two-valued input has a result (R81, R95; "No case maps to `fault`
or `stuck`", 93_implementation_defined.md). No instruction raises one. -/
inductive Fault where
deriving DecidableEq, Repr

/-- The boundary verdicts of the model (R95). None of them is a behaviour of the block; a run that
meets one is refused for good, since no state follows. -/
inductive Refusal where
  /-- An instruction rejected by name in `exec`: none is. Safe. -/
  | notModelled (mnemonic : String)
  /-- A bit of an input port the block has is not 0 or 1. Raised by a port cycle (R52, R95, I8).
  Safe. -/
  | unknownInput
  /-- An operation in serial form that this single-function configuration lacks. Raised by `MULHS`
  when `UNSIGNED_ONLY` and by `MULHU` when `SIGNED_ONLY` (R47, R95, I10). Safe. -/
  | operationAbsent
  /-- `out_hi` is wired to an input in the same cycle when `L = 0`. Raised by a port cycle (R106,
  I9). Safe. -/
  | combinationalLoop
  /-- The number presented is no 129-bit command word. Raised by the trace reader (R44). Safe. -/
  | notACommandWord
  /-- The statement `RESET` when `L = 0`: there is no port `rst` (R18, R49). Raised by the trace
  reader. Safe. -/
  | noResetPort
deriving DecidableEq, Repr

/-- Everything the model holds between two cycles. -/
structure State where
  /-- `CONFIG` and `L` (R4, R8), fixed for a block: no step changes them. -/
  cfg : Config
  /-- The stages `E[1..L]`, youngest first: `none` is `Empty`, `some r` is `Full(r)` (R19). -/
  stages : List (Option Word)
  /-- The output ports in the cycle last stepped: `some r` is `out_valid = 1` with `out_hi = r`,
  `none` is `out_valid = 0` (R18, R20, R21). -/
  out : Option Word
  /-- The requester's cycles still to come (R29, R109). -/
  stream : List Stimulus
  /-- The model's own field: the number of the draw that `out_hi` shows while `out_valid = 0`
  (R23). -/
  draw : Nat
deriving DecidableEq, Repr

/-- The state after a reset edge (R27): every stage `Empty`, no output seen yet, nothing presented. -/
def State.afterReset (c : Config) : State :=
  { cfg := c, stages := List.replicate c.latency none, out := none, stream := [], draw := 0 }

/-- The state before the first reset (R26): every stage a free value, drawn from `d` on. -/
def State.powerOn (c : Config) (d : Nat) : State :=
  { cfg := c, stages := (List.range c.latency).map (fun k => Config.powerOnStage (d + k)),
    out := none, stream := [], draw := d }

/-- The machine right after reset, in the reference configuration (R8, R27). -/
def State.reset : State := State.afterReset Config.reference

/-- The pipeline has `L` stages (R19). -/
abbrev State.wf (s : State) : Prop := s.stages.length = s.cfg.latency

end Sys2Proof.Machine
end

