-- ==== Sys2Proof/Machine/Ops.lean ====
section
/-! DEFINITION. The shared operations over the pipeline and the ports: what a cycle shows (R20,
R21), what the clock edge that ends it leaves (R22), and the reset edge (R96). There is no memory,
no register file and no exception to take (R14, R31, R81, R85). -/

namespace Sys2Proof.Machine

/-- Stage `E[k]` for `k` in 1..L; `E[1]` is the youngest (R19). -/
def State.stage (s : State) (k : Nat) : Option Word := (s.stages[k - 1]?).join

/-- `E[L]`, the oldest stage (R19). -/
def State.oldest (s : State) : Option Word := s.stages.getLast?.join

/-- `out_valid` in the cycle last stepped (R18). -/
def State.outValid (s : State) : Bool := s.out.isSome

/-- `out_hi` in the cycle last stepped: the result, or a free value when there is none (R18, R23). -/
def State.outHi (s : State) : Word := s.out.getD (Config.freeOutHi s.draw)

/-- `out_hi` in the cycle about to be stepped, when `L ≥ 1`: it depends on the state alone (R21), and
the step's own draw gives it where `E[L]` is `Empty` (R23). -/
def State.presentHi (s : State) : Word := s.oldest.getD (Config.freeOutHi (s.draw + 1))

/-- The state with other cycles to come. -/
def State.withStream (s : State) (cs : List Stimulus) : State := { s with stream := cs }

/-- What the outputs show in a cycle that presents `incoming` (a result, or nothing): that itself
when `L = 0` (R20), the oldest stage when `L ≥ 1` (R21). -/
def State.shown (s : State) (incoming : Option Word) : Option Word :=
  if s.cfg.latency = 0 then incoming else s.oldest

/-- The stages after the edge that ends a cycle without reset: the incoming result enters `E[1]`,
and every other stage takes its younger neighbour's old contents (R22). -/
def State.shifted (s : State) (incoming : Option Word) : List (Option Word) :=
  if s.cfg.latency = 0 then [] else incoming :: s.stages.dropLast

/-- One cycle without reset that presents `incoming` (R20, R21, R22). -/
def State.cycle (s : State) (incoming : Option Word) : State :=
  { s with out := s.shown incoming, stages := s.shifted incoming, draw := s.draw + 1 }

/-- One cycle with `rst = 1`, when `L ≥ 1`: the outputs still show the old state, and the edge
empties every stage (R22, R96, R99). -/
def State.resetCycle (s : State) : State :=
  { s with out := s.oldest, stages := List.replicate s.cfg.latency none, draw := s.draw + 1 }

end Sys2Proof.Machine
end

