-- ==== Sys2Proof/Machine/Multiply.lean ====
section
/-! DEFINITION. The two operations (R53 to R57) and the meaning of each as an instruction: one cycle
in which the requester presents it with `in_valid = 1` and `rst = 0` (R22, R41). -/

namespace Sys2Proof.Machine

/-- `Ps(a, b)`, the exact signed product (R53). -/
def productS (a b : Word) : Int := sval a * sval b

/-- `Pu(a, b)`, the exact unsigned product (R53). -/
def productU (a b : Word) : Nat := uval a * uval b

/-- `MULHS(a, b) = bits_64(floor(sval(a) · sval(b) / 2^64))` (R56). -/
def mulhs (a b : Word) : Word := bits64 (floorHigh (productS a b))

/-- `MULHU(a, b) = bits_64(floor(uval(a) · uval(b) / 2^64))` (R57). -/
def mulhu (a b : Word) : Word := bits64 (floorHigh (productU a b))

/-- `MULH(sel, a, b)` (R55). -/
def mulh (sel : Bool) (a b : Word) : Word := if sel then mulhs a b else mulhu a b

/-- `MULHS a, b` presented in one cycle (R20, R22, R56). A block that has `MULHU` only refuses the
word at the boundary (R47). -/
def execMulhs (a b : Word) (s : State) : Host.Outcome State Fault Refusal :=
  if s.cfg.kind = .unsignedOnly then .refused .operationAbsent
  else .next (s.cycle (some (mulhs a b)))

/-- `MULHU a, b` presented in one cycle (R20, R22, R57). A block that has `MULHS` only refuses the
word at the boundary (R47). -/
def execMulhu (a b : Word) (s : State) : Host.Outcome State Fault Refusal :=
  if s.cfg.kind = .signedOnly then .refused .operationAbsent
  else .next (s.cycle (some (mulhu a b)))

end Sys2Proof.Machine
end

