-- ==== Sys2Proof/Machine/Dispatch.lean ====
section
/-! DEFINITION. Each instruction's meaning, one direct call an arm (R42, R55). -/

namespace Sys2Proof.Machine

def exec (i : Instr) (s : State) : Host.Outcome State Fault Refusal :=
  match i with
  | .mulhs a b => Sys2Proof.Machine.execMulhs a b s
  | .mulhu a b => Sys2Proof.Machine.execMulhu a b s

end Sys2Proof.Machine
end

