-- ==== Sys2Proof/Machine/Cycle.lean ====
section
/-! DEFINITION. One cycle of the requester's stream (R29): reading a trace statement (R44, R47,
R49), or sampling the input ports the block has (R18, R52, R106) and stepping it (R20, R22). -/

namespace Sys2Proof.Machine

/-- The bit on a one-bit port, if it is 0 or 1 (R52). -/
def readLevel : Level → Option Bool
  | .low => some false
  | .high => some true
  | .unknown => none

/-- The bit on `in_sel`, if it is 0 or 1, while `out_hi` shows `hi` (R52, R106). -/
def readSel (hi : Word) : SelDrive → Option Bool
  | .value b => some b
  | .unknown => none
  | .outHiBit k => some (hi.getLsbD k.val)

/-- The value on an operand port, if every bit is 0 or 1, while `out_hi` shows `hi` (R52, R106). -/
def readWord (hi : Word) : WordDrive → Option Word
  | .value v => some v
  | .unknown => none
  | .outHi => some hi

/-- Two-valued inputs of one cycle, with the effective select (R24). -/
structure PortSample where
  rst : Bool
  valid : Bool
  sel : Bool
  a : Word
  b : Word
deriving DecidableEq, Repr

/-- The inputs of a cycle, sampled at the ports the block has; nothing if a bit there is unknown
(R18, R24, R52). There is no `rst` when `L = 0`, and no `in_sel` unless `UNIFIED`. -/
def samplePorts (c : Config) (hi : Word) (p : PortDrive) : Option PortSample :=
  match if c.latency = 0 then some false else readLevel p.rst, readLevel p.inValid,
      selEff c.kind (readSel hi p.inSel), readWord hi p.inA, readWord hi p.inB with
  | some rst, some valid, some sel, some a, some b => some { rst, valid, sel, a, b }
  | _, _, _, _, _ => none

/-- `out_hi` is wired to an input port the block has, in the same cycle (R106). -/
def feedsBack (c : Config) (p : PortDrive) : Bool :=
  (match p.inA with | .outHi => true | _ => false) ||
  (match p.inB with | .outHi => true | _ => false) ||
  (match c.kind, p.inSel with | .unified, .outHiBit _ => true | _, _ => false)

/-- One cycle of driven ports. An unknown bit refuses the cycle (R52), and so does a combinational
loop (R106); then reset wins over an operation (R98), and an operation is the one that the
effective select names (R24, R42). -/
def portCycle (p : PortDrive) (s : State) : Host.Outcome State Fault Refusal :=
  match samplePorts s.cfg s.presentHi p with
  | none => .refused .unknownInput
  | some q =>
    if s.cfg.latency == 0 && feedsBack s.cfg p then .refused .combinationalLoop
    else if q.rst then .next s.resetCycle
    else if q.valid then exec (decode (commandWord q.sel q.a q.b)) s
    else .next (s.cycle none)

/-- One cycle of the stream: a command word is the operation it decodes to (R44, R45), `IDLE` is a
bubble (R46), and `RESET` exists only when `L ≥ 1` (R49, R96). -/
def stimulusCycle (x : Stimulus) (s : State) : Host.Outcome State Fault Refusal :=
  match x with
  | .word n =>
    match decodeWord n with
    | .ok i => exec i s
    | .error _ => .refused .notACommandWord
  | .idle => .next (s.cycle none)
  | .reset => if s.cfg.latency = 0 then .refused .noResetPort else .next s.resetCycle
  | .ports p => portCycle p s

/-- The next cycle of the requester: the head of its stream, or `IDLE` after the stream's end
(R109). -/
def nextCycle (s : State) : Host.Outcome State Fault Refusal :=
  match s.stream with
  | [] => stimulusCycle .idle s
  | x :: xs => stimulusCycle x (s.withStream xs)

/-- The command word of the `nbits` lowest bits of `w` presented next, before all other cycles. -/
def presentWord (s : State) (nbits w : Nat) : State :=
  s.withStream (.word (BitVec.ofNat nbits w).toNat :: s.stream)

end Sys2Proof.Machine
end

