-- ==== Sys2Proof/Machine/Step.lean ====
section
/-! DEFINITION. One step of the model is one cycle of the block and its requester (R29, R30). -/

namespace Sys2Proof.Machine

/-- One cycle: the block's step on what the requester presents (R20, R22, R29). -/
def step (s : State) : Host.Outcome State Fault Refusal := nextCycle s

/-- The state in which the requester presents the command word `w` in the very next cycle. -/
def State.withFetchWord (s : State) (nbits w : Nat) : State := presentWord s nbits w

end Sys2Proof.Machine
end

