-- ==== Sys2Proof/Machine/Limb.lean ====
section
/-! DEFINITION. The source's other two ways to compute the same results: the portable limb algorithm
(R61 to R63) and the native 128-bit multiply (R66). They are not the model's meaning of an
instruction; the statements say that they equal it (R67). -/

namespace Sys2Proof.Machine

/-- The values the limb algorithm computes, in its order (R62, R63). -/
structure LimbTrace where
  x0 : Word
  x1 : Word
  y0 : Word
  y1 : Word
  p : Word
  t : Word
  w : Word
  result : Word
deriving DecidableEq, Repr

/-- `v & 0x00000000FFFFFFFF`, the low limb (R61). -/
def lowLimb (v : Word) : Word := v &&& 0x00000000FFFFFFFF

/-- The limb algorithm with each shift's kind named: `split` of the operands (R61), `low` of the
low product's high half, `accT` and `accW` of the two terms of the last sum (R62, R63). All sums
and products are modulo 2^64 (R10). -/
def limbTrace (split low accT accW : ShiftKind) (x y : Word) : LimbTrace :=
  let x0 := lowLimb x
  let x1 := shiftRight split x 32
  let y0 := lowLimb y
  let y1 := shiftRight split y 32
  let p := x0 * y0
  let t := x1 * y0 + shiftRight low p 32
  let w := lowLimb t + x0 * y1
  { x0, x1, y0, y1, p, t, w, result := x1 * y1 + shiftRight accT t 32 + shiftRight accW w 32 }

/-- `LIMB_S` with its intermediates: only the low product's shift is logical (R62). -/
def limbTraceS (x y : Word) : LimbTrace := limbTrace .arithmetic .logical .arithmetic .arithmetic x y

/-- `LIMB_U` with its intermediates: every shift is logical (R63). -/
def limbTraceU (x y : Word) : LimbTrace := limbTrace .logical .logical .logical .logical x y

/-- `LIMB_S(x, y)` (R62). -/
def limbS (x y : Word) : Word := (limbTraceS x y).result

/-- `LIMB_U(x, y)` (R63). -/
def limbU (x y : Word) : Word := (limbTraceU x y).result

/-- `NATIVE_S(x, y)`: 128-bit signed multiply, arithmetic shift right by 64, low 64 bits (R66). -/
def nativeS (x y : Word) : Word := ((sext128 x * sext128 y).sshiftRight 64).setWidth 64

/-- `NATIVE_U(x, y)`: 128-bit unsigned multiply, logical shift right by 64, low 64 bits (R66). -/
def nativeU (x y : Word) : Word := ((zext128 x * zext128 y) >>> 64).setWidth 64

end Sys2Proof.Machine
end

