-- ==== Sys2Proof/Machine/Text.lean ====
section
/-! DEFINITION. The assembler syntax (R49, R50) and the trace text (R44): a line of text becomes one
cycle of the requester's stream, or is refused at the syntax boundary. Blanks part words; a line
with no statement on it is no cycle (assumption 9). -/

namespace Sys2Proof.Machine

/-- Why a line is refused. -/
inductive TextError where
  /-- The words form no statement of R49. -/
  | badStatement
  /-- An operand is no literal of R49: no digits, a wrong digit, or over 16 hexadecimal digits. -/
  | badLiteral
  /-- A decimal literal lies outside the operation's range; it is never truncated (R49, I11). -/
  | literalOutOfRange
  /-- A trace token is no command word (R44). -/
  | badWord (e : DecodeError)
deriving DecidableEq, Repr

/-- An operand as written (R49). -/
inductive Literal where
  /-- `0x` and 1 to 16 digits: the 64-bit vector with that value, zero-filled at the top. -/
  | hex (v : Word)
  /-- A decimal number, possibly negative. -/
  | dec (n : Int)
deriving DecidableEq, Repr

/-- A statement: one cycle (R49). `MULH sel, a, b` is the same statement as `MULHS` or `MULHU`
(R50). -/
inductive Statement where
  | op (sel : Bool) (a b : Literal)
  | idle
  | reset
deriving DecidableEq, Repr

/-- The expected-result annotation of a line (R49): a result, or `none` for `out_valid = 0`. -/
abbrev Expected := Option Word

/-! ### Meaning of a statement -/

/-- The range of a decimal literal: −2^63 .. 2^63−1 for `MULHS`, 0 .. 2^64−1 for `MULHU` (R49). -/
def decimalInRange (sel : Bool) (n : Int) : Bool :=
  if sel then decide (-9223372036854775808 ≤ n ∧ n ≤ 9223372036854775807)
  else decide (0 ≤ n ∧ n ≤ 18446744073709551615)

/-- The value of an operand under a select; out of range is refused (R49). -/
def literalValue (sel : Bool) : Literal → Except TextError Word
  | .hex v => .ok v
  | .dec n => if decimalInRange sel n then .ok (bits64 n) else .error .literalOutOfRange

/-- The cycle a statement presents (R44, R49). -/
def statementCycle : Statement → Except TextError Stimulus
  | .idle => .ok .idle
  | .reset => .ok .reset
  | .op sel a b =>
    match literalValue sel a, literalValue sel b with
    | .ok x, .ok y => .ok (.word (encodeWord (instrOf sel x y)))
    | .error e, _ => .error e
    | _, .error e => .error e

/-! ### Reading a line -/

/-- A blank character. -/
def isBlank (c : Char) : Bool := c == ' ' || c == '\t' || c == '\r'

/-- A line up to its comment (R49). -/
def codePart (line : List Char) : List Char := line.takeWhile (· != ';')

/-- A line's comment, without the `;` (R49). -/
def commentPart (line : List Char) : List Char := (line.dropWhile (· != ';')).drop 1

/-- The word collected so far, if there is one, before the words after it. -/
def flush (word : List Char) (rest : List (List Char)) : List (List Char) :=
  if word.isEmpty then rest else word :: rest

/-- The words of a line; `word` is the one being read, and a comma is a word of its own. -/
def wordsOf (word : List Char) : List Char → List (List Char)
  | [] => flush word []
  | c :: cs =>
    if isBlank c then flush word (wordsOf [] cs)
    else if c == ',' then flush word ([','] :: wordsOf [] cs)
    else wordsOf (word ++ [c]) cs

/-- The number decimal digits write after the digits of `acc`. -/
def decimalValue (acc : Nat) : List Char → Option Nat
  | [] => some acc
  | c :: cs =>
    if 48 ≤ c.toNat ∧ c.toNat ≤ 57 then decimalValue (10 * acc + (c.toNat - 48)) cs else none

/-- An operand literal (R49). -/
def parseLiteral : List Char → Option Literal
  | [] => none
  | '0' :: 'x' :: ds =>
    if 1 ≤ ds.length ∧ ds.length ≤ 16 then (hexValue 0 ds).map (fun v => .hex (BitVec.ofNat 64 v))
    else none
  | '-' :: d :: ds => (decimalValue 0 (d :: ds)).map (fun v => .dec (-(v : Int)))
  | '-' :: [] => none
  | d :: ds => (decimalValue 0 (d :: ds)).map (fun v => .dec (v : Int))

/-- A statement with two operand words. -/
def parseOperands (sel : Bool) (a b : List Char) : Except TextError Statement :=
  match parseLiteral a, parseLiteral b with
  | some x, some y => .ok (.op sel x y)
  | _, _ => .error .badLiteral

/-- The statement a line's words form (R49), the generic form `MULH sel, a, b` among them (R50). -/
def parseWords : List (List Char) → Except TextError Statement
  | [['I', 'D', 'L', 'E']] => .ok .idle
  | [['R', 'E', 'S', 'E', 'T']] => .ok .reset
  | [['M', 'U', 'L', 'H', 'S'], a, [','], b] => parseOperands true a b
  | [['M', 'U', 'L', 'H', 'U'], a, [','], b] => parseOperands false a b
  | [['M', 'U', 'L', 'H'], ['1'], [','], a, [','], b] => parseOperands true a b
  | [['M', 'U', 'L', 'H'], ['0'], [','], a, [','], b] => parseOperands false a b
  | _ => .error .badStatement

/-- The annotation in a comment, `-> <16 hex digits>` or `-> none` (R49); any other comment has
none. -/
def parseAnnotation (comment : List Char) : Option Expected :=
  match wordsOf [] comment with
  | ['-', '>'] :: ['n', 'o', 'n', 'e'] :: _ => some none
  | ['-', '>'] :: ds :: _ =>
    if ds.length = 16 then (hexValue 0 ds).map (fun v => some (BitVec.ofNat 64 v)) else none
  | _ => none

/-- One line: no cycle, or the cycle its statement presents and what its annotation expects (R49). -/
def assembleLine (line : List Char) : Except TextError (Option (Stimulus × Option Expected)) :=
  match wordsOf [] (codePart line) with
  | [] => .ok none
  | ws =>
    match parseWords ws with
    | .error e => .error e
    | .ok st =>
      match statementCycle st with
      | .error e => .error e
      | .ok x => .ok (some (x, parseAnnotation (commentPart line)))

/-- A program: its lines in cycle order, refused as a whole if one line is (R49). -/
def assemble : List (List Char) → Except TextError (List (Stimulus × Option Expected))
  | [] => .ok []
  | l :: ls =>
    match assembleLine l, assemble ls with
    | .ok none, .ok r => .ok r
    | .ok (some x), .ok r => .ok (x :: r)
    | .error e, _ => .error e
    | _, .error e => .error e

/-- One token of a trace: a command word's 33 digits, `IDLE` or `RESET` (R44). -/
def traceToken : List Char → Except TextError Stimulus
  | ['I', 'D', 'L', 'E'] => .ok .idle
  | ['R', 'E', 'S', 'E', 'T'] => .ok .reset
  | cs =>
    match wordOfText cs with
    | .ok n => .ok (.word n)
    | .error e => .error (.badWord e)

end Sys2Proof.Machine
end

