-- ==== Sys2Proof/WellFormed.lean ====
section
/-! DEFINITION. Which operations a configuration has (R47). Every operand field takes every value
(R45, R46), so this is the only check an operation needs. -/

namespace Sys2Proof

/-- A block of form `k` has the operation: `UNIFIED` has both, `SIGNED_ONLY` has `MULHS` and
`UNSIGNED_ONLY` has `MULHU` (R42, R47; the table's `configs`). -/
def Instr.wf (k : Kind) : Instr → Bool
  | .mulhs _ _ => k != .unsignedOnly
  | .mulhu _ _ => k != .signedOnly

end Sys2Proof
end

