-- ==== Sys2Proof/Safety.lean ====
section
/-! DEFINITION. The terms the statements use: which cycles a block accepts, what a cycle presents to
the pipeline, what a run shows, and the invariant of a block that has been reset. -/

namespace Sys2Proof.Machine

/-! ### Cycles -/

/-- A block of configuration `c` accepts the cycle: it is none of the refusals of R95, R106 and R44,
and no `RESET` statement where there is no port `rst` (R49). -/
def Stimulus.accepted (c : Config) : Stimulus → Bool
  | .word n =>
    match decodeWord n with
    | .ok i => i.wf c.kind
    | .error _ => false
  | .idle => true
  | .reset => c.latency != 0
  | .ports p => (samplePorts c 0#64 p).isSome && !(c.latency == 0 && feedsBack c p)

/-- The cycle presents `rst = 1` to a block that has the port (R18, R96). -/
def Stimulus.resets (c : Config) : Stimulus → Bool
  | .word _ => false
  | .idle => false
  | .reset => c.latency != 0
  | .ports p =>
    match samplePorts c 0#64 p with
    | some q => q.rst
    | none => false

/-- The cycle wires `out_hi` back to an input (R106). -/
def Stimulus.feeds (c : Config) : Stimulus → Bool
  | .ports p => feedsBack c p
  | .word _ => false
  | .idle => false
  | .reset => false

/-- The result of an operation (R55). -/
def resultOf : Instr → Word
  | .mulhs a b => mulhs a b
  | .mulhu a b => mulhu a b

/-- The result of the operation a cycle issues, if it issues one (R22), for a cycle that does not
read `out_hi`. -/
def Stimulus.issues (c : Config) : Stimulus → Option Word
  | .word n =>
    match decodeWord n with
    | .ok i => some (resultOf i)
    | .error _ => none
  | .idle => none
  | .reset => none
  | .ports p =>
    match samplePorts c 0#64 p with
    | some q => if q.valid && !q.rst then some (mulh q.sel q.a q.b) else none
    | none => none

/-- The same state in a block of another form (R4). -/
def State.withKind (k : Kind) (s : State) : State := { s with cfg := { s.cfg with kind := k } }

/-- A port drive of two-valued bits: nothing on it is unknown (R52). -/
def PortDrive.twoValued (p : PortDrive) : Bool :=
  p.rst != .unknown && p.inValid != .unknown && p.inSel != .unknown && p.inA != .unknown &&
    p.inB != .unknown

/-! ### Runs -/

/-- What the outputs show in each of the next `k` cycles, in order (R109): `some r` for
`out_valid = 1` and `out_hi = r`, `none` for `out_valid = 0`. It ends where the run is refused. -/
def shownIn : Nat → State → List (Option Word)
  | 0, _ => []
  | k + 1, s =>
    match step s with
    | .next t => t.out :: shownIn k t
    | .fault _ => []
    | .refused _ => []

/-- A program annotated per R49, run to its end (R109): every annotated line's result is due `L`
cycles after it (R102). -/
def annotationsHold (c : Config) (program : List (Stimulus × Option Expected)) : Bool :=
  let s := (State.afterReset c).withStream (program.map Prod.fst)
  let shown := shownIn (program.length + c.latency) s
  (program.zipIdx).all (fun x =>
    match x.1.2 with
    | none => true
    | some e => shown[x.2 + c.latency]? == some e)

/-! ### The invariant of a block that has been reset -/

/-- A value some operation of the configuration produces (R47, R55). -/
def Producible (k : Kind) (r : Word) : Prop := ∃ i : Instr, i.wf k = true ∧ resultOf i = r

/-- The pipeline has `L` stages (R19), and every result in it or on the outputs is the result of an
operation the block has (R34; before the first reset this need not hold, R26). -/
structure State.Inv (s : State) : Prop where
  stages_length : s.wf
  stages_producible : ∀ r, some r ∈ s.stages → Producible s.cfg.kind r
  out_producible : ∀ r, s.out = some r → Producible s.cfg.kind r

end Sys2Proof.Machine
end

