-- ==== Sys2Proof/Certificates/Slice0/Obligations.lean ====
section
/-! DEFINITION. The statements for the provers, in the spec's order: encodings, results, laws, the
cycle, reset, refusals, runs and the invariant. -/

open Sys2Proof Sys2Proof.Machine

/-! ### Encoding and syntax (30_encoding.md) -/

/-- R42, R44: the spec's own command words (95_test_vectors.md P1, P3) decode to the operations it
gives them. -/
def Obligations.SpecWordsDecode : Prop :=
  decodeText ['1', '8', '0', '0', '0', '0', '0', '0', '0', '0', '0', '0', '0', '0', '0', '0', '0',
      '8', '0', '0', '0', '0', '0', '0', '0', '0', '0', '0', '0', '0', '0', '0', '0']
    = .ok (.mulhs 0x8000000000000000 0x8000000000000000) ∧
  decodeWord 0x0FFFFFFFFFFFFFFFF0000000000000001
    = .ok (.mulhu 0xFFFFFFFFFFFFFFFF 0x0000000000000001) ∧
  decodeWord 0x1123456789ABCDEF0FEDCBA9876543210
    = .ok (.mulhs 0x123456789ABCDEF0 0xFEDCBA9876543210)

/-- R44, R45: an operation's text decodes to it, with every operand at every value, and so does its
number; the text is 33 digits long and starts with 0 or 1. -/
def Obligations.DecodeOfEncode : Prop :=
  ∀ i : Instr, decode (encode i) = i ∧ decodeWord (encodeWord i) = .ok i ∧
    decodeText (encodeText i) = .ok i ∧ (encodeText i).length = 33 ∧
    ((encodeText i).head? = some '0' ∨ (encodeText i).head? = some '1')

/-- R45: decoding drops no bit: every one of the 2^129 words is the word of what it decodes to. -/
def Obligations.EncodeOfDecode : Prop :=
  ∀ c : CommandWord, encode (decode c) = c

/-- R42, R44: a word `C` is the `MULHS` row's operation exactly when `C & mask = match` for that
row, and the `MULHU` row's exactly when it is so for that one; its operands are C[127:64] and
C[63:0]. -/
def Obligations.TableRowsSelect : Prop :=
  ∀ c : CommandWord,
    (c &&& 0x100000000000000000000000000000000#129 = 0x100000000000000000000000000000000#129 ↔
      decode c = .mulhs (c.extractLsb' 64 64) (c.extractLsb' 0 64)) ∧
    (c &&& 0x100000000000000000000000000000000#129 = 0#129 ↔
      decode c = .mulhu (c.extractLsb' 64 64) (c.extractLsb' 0 64))

/-- R44: a text is a command word exactly when it is 33 hexadecimal digits of which the first is 0
or 1, and then its number is the one the digits write. That a digit may be of either case is the
model's choice (assumption 8). -/
def Obligations.CommandTextAccepted : Prop :=
  ∀ cs : List Char,
    ((∃ i, decodeText cs = .ok i) ↔
      cs.length = 33 ∧ (∀ c ∈ cs, (hexDigit c).isSome = true) ∧
        (cs.head? = some '0' ∨ cs.head? = some '1')) ∧
    ∀ i, decodeText cs = .ok i → hexValue 0 cs = some (encodeWord i)

/-- R49: a decimal literal is taken exactly in its operation's range, as `bits_64` of the number it
writes, which reads back as that number; one outside is refused, never truncated. -/
def Obligations.DecimalLiteralsRanged : Prop :=
  ∀ n : Int,
    (-2 ^ 63 ≤ n ∧ n ≤ 2 ^ 63 - 1 → literalValue true (.dec n) = .ok (bits64 n)) ∧
    (0 ≤ n ∧ n ≤ 2 ^ 64 - 1 → literalValue false (.dec n) = .ok (bits64 n)) ∧
    (literalValue true (.dec n) = .error .literalOutOfRange ↔ ¬ (-2 ^ 63 ≤ n ∧ n ≤ 2 ^ 63 - 1)) ∧
    (literalValue false (.dec n) = .error .literalOutOfRange ↔ ¬ (0 ≤ n ∧ n ≤ 2 ^ 64 - 1)) ∧
    (∀ v, literalValue true (.dec n) = .ok v → sval v = n) ∧
    (∀ v, literalValue false (.dec n) = .ok v → (uval v : Int) = n)

/-- R49, R50: a statement's cycle. The words `MULHS a, b` and `MULHU a, b` with two literals are the
statements of `sel` = 1 and `sel` = 0 on those operands, and `MULH sel, a, b` is the same statement
as the operation `sel` names; a statement whose literals have values presents the command word of its
operation on them. -/
def Obligations.StatementsPresentWords : Prop :=
  (∀ (a b : List Char) (x y : Literal), parseLiteral a = some x → parseLiteral b = some y →
    parseWords [['M', 'U', 'L', 'H', 'S'], a, [','], b] = .ok (.op true x y) ∧
    parseWords [['M', 'U', 'L', 'H', 'U'], a, [','], b] = .ok (.op false x y)) ∧
  (∀ a b : List Char,
    parseWords [['M', 'U', 'L', 'H'], ['1'], [','], a, [','], b] =
      parseWords [['M', 'U', 'L', 'H', 'S'], a, [','], b] ∧
    parseWords [['M', 'U', 'L', 'H'], ['0'], [','], a, [','], b] =
      parseWords [['M', 'U', 'L', 'H', 'U'], a, [','], b]) ∧
  (∀ (sel : Bool) (a b : Literal) (x y : Word),
    literalValue sel a = .ok x → literalValue sel b = .ok y →
      ∃ n, statementCycle (.op sel a b) = .ok (.word n) ∧
        decodeWord n = .ok (if sel then .mulhs x y else .mulhu x y))

/-! ### Results (40_multiply_high.md, sections 1 and 2) -/

/-- R53: the ranges of the exact products, and that `Ps` fits in 128-bit two's complement and `Pu`
in 128 unsigned bits. -/
def Obligations.ExactProductsFit : Prop :=
  ∀ a b : Word,
    (-2 ^ 126 + 2 ^ 63 ≤ sval a * sval b ∧ sval a * sval b ≤ 2 ^ 126) ∧
    uval a * uval b ≤ 2 ^ 128 - 2 ^ 65 + 1 ∧
    (bits128 (productS a b)).toInt = sval a * sval b ∧
    (bits128 (productU a b)).toNat = uval a * uval b

/-- R54: bits [127:64] of the 128-bit product are the 64 bits of its floor over 2^64, and reading
those bits gives exactly that floor, signed and unsigned. -/
def Obligations.HighHalfIsFloor : Prop :=
  ∀ a b : Word,
    highHalf (bits128 (productS a b)) = mulhs a b ∧
    sval (mulhs a b) = (sval a * sval b) / 2 ^ 64 ∧
    highHalf (bits128 (productU a b)) = mulhu a b ∧
    uval (mulhu a b) = (uval a * uval b) / 2 ^ 64

/-- R58: the two operations differ exactly when the correction `c` is not 0; in particular whenever
exactly one operand has bit 63 set and the other is not 0; two operands with bit 63 set may agree;
and the rule's example. -/
def Obligations.SelectsDifferByCorrection : Prop :=
  (∀ a b : Word, mulhs a b ≠ mulhu a b ↔
    (if a.getLsbD 63 then b else 0) + (if b.getLsbD 63 then a else 0) ≠ (0 : Word)) ∧
  (∀ a b : Word, a.getLsbD 63 = true → b.getLsbD 63 = false → b ≠ 0 → mulhs a b ≠ mulhu a b) ∧
  (∀ a b : Word, a.getLsbD 63 = false → b.getLsbD 63 = true → a ≠ 0 → mulhs a b ≠ mulhu a b) ∧
  (mulhs int64Min int64Min = 0x4000000000000000 ∧ mulhu int64Min int64Min = 0x4000000000000000) ∧
  mulhs 0xFFFFFFFFFFFFFFFF 0x0000000000000001 = 0xFFFFFFFFFFFFFFFF ∧
  mulhu 0xFFFFFFFFFFFFFFFF 0x0000000000000001 = 0x0000000000000000

/-- R59: the ranges of the results, where the signed bounds are reached, and the unsigned bound by
the operands. -/
def Obligations.ResultRanges : Prop :=
  (∀ a b : Word, -2 ^ 62 ≤ sval (mulhs a b) ∧ sval (mulhs a b) ≤ 2 ^ 62) ∧
  mulhs 0x8000000000000000 0x7FFFFFFFFFFFFFFF = 0xC000000000000000 ∧
  (∀ a b : Word, mulhs a b = 0x4000000000000000 ↔ a = int64Min ∧ b = int64Min) ∧
  (∀ a b : Word, ¬ (0x4000000000000001 ≤ uval (mulhs a b) ∧
    uval (mulhs a b) ≤ 0xBFFFFFFFFFFFFFFF)) ∧
  (∀ a b : Word, uval (mulhu a b) ≤ 2 ^ 64 - 2 ∧ mulhu a b ≠ 0xFFFFFFFFFFFFFFFF) ∧
  (∀ a b : Word, uval (mulhu a b) ≤ min (uval a) (uval b) ∧
    (a ≠ 0 → b ≠ 0 → uval (mulhu a b) < min (uval a) (uval b)))

/-- R60: the corner cases, each row for both operations. -/
def Obligations.CornerCases : Prop :=
  (∀ y : Word, mulhs 0 y = 0 ∧ mulhu 0 y = 0) ∧
  (∀ y : Word, mulhs 1 y = (if y.getLsbD 63 then 0xFFFFFFFFFFFFFFFF else 0) ∧ mulhu 1 y = 0) ∧
  (∀ y : Word, mulhs 0xFFFFFFFFFFFFFFFF y = (if 0 < sval y then 0xFFFFFFFFFFFFFFFF else 0) ∧
    mulhu 0xFFFFFFFFFFFFFFFF y = (if y ≠ 0 then y - 1 else 0)) ∧
  (mulhs 0xFFFFFFFFFFFFFFFF 0xFFFFFFFFFFFFFFFF = 0 ∧
    mulhu 0xFFFFFFFFFFFFFFFF 0xFFFFFFFFFFFFFFFF = 0xFFFFFFFFFFFFFFFE) ∧
  (mulhs 0xFFFFFFFFFFFFFFFF 1 = 0xFFFFFFFFFFFFFFFF ∧ mulhu 0xFFFFFFFFFFFFFFFF 1 = 0) ∧
  (mulhs 0x8000000000000000 0x8000000000000000 = 0x4000000000000000 ∧
    mulhu 0x8000000000000000 0x8000000000000000 = 0x4000000000000000) ∧
  (mulhs 0x8000000000000000 0x7FFFFFFFFFFFFFFF = 0xC000000000000000 ∧
    mulhu 0x8000000000000000 0x7FFFFFFFFFFFFFFF = 0x3FFFFFFFFFFFFFFF) ∧
  (mulhs 0x7FFFFFFFFFFFFFFF 0x7FFFFFFFFFFFFFFF = 0x3FFFFFFFFFFFFFFF ∧
    mulhu 0x7FFFFFFFFFFFFFFF 0x7FFFFFFFFFFFFFFF = 0x3FFFFFFFFFFFFFFF) ∧
  (mulhs 0x8000000000000000 0xFFFFFFFFFFFFFFFF = 0 ∧
    mulhu 0x8000000000000000 0xFFFFFFFFFFFFFFFF = 0x7FFFFFFFFFFFFFFF) ∧
  (mulhs 0x0000000100000000 0x0000000100000000 = 1 ∧
    mulhu 0x0000000100000000 0x0000000100000000 = 1)

/-- R61: the ranges of the limbs, and that each operand is `v1·2^32 + v0`, signed and unsigned. -/
def Obligations.LimbSplit : Prop :=
  ∀ v : Word,
    uval (lowLimb v) ≤ 2 ^ 32 - 1 ∧
    (-2 ^ 31 ≤ sval (shiftRight .arithmetic v 32) ∧
      sval (shiftRight .arithmetic v 32) ≤ 2 ^ 31 - 1) ∧
    uval (shiftRight .logical v 32) ≤ 2 ^ 32 - 1 ∧
    sval v = sval (shiftRight .arithmetic v 32) * 2 ^ 32 + uval (lowLimb v) ∧
    uval v = uval (shiftRight .logical v 32) * 2 ^ 32 + uval (lowLimb v)

/-- R64, `LIMB_S`: no intermediate wraps: each equals the same expression on integers, and it, the
partial sum and the result lie in the ranges the rule gives. -/
def Obligations.SignedLimbsNeverWrap : Prop :=
  ∀ x y : Word,
    let l := limbTraceS x y
    (uval l.p : Int) = uval l.x0 * uval l.y0 ∧
    sval l.t = sval l.x1 * uval l.y0 + (uval l.p : Int) / 2 ^ 32 ∧
    sval l.w = sval l.t % 2 ^ 32 + uval l.x0 * sval l.y1 ∧
    sval (l.x1 * l.y1) = sval l.x1 * sval l.y1 ∧
    sval l.result = sval l.x1 * sval l.y1 + sval l.t / 2 ^ 32 + sval l.w / 2 ^ 32 ∧
    uval l.p ≤ 2 ^ 64 - 2 ^ 33 + 1 ∧
    (-2 ^ 63 + 2 ^ 31 ≤ sval l.t ∧ sval l.t ≤ 2 ^ 63 - 2 ^ 31 - 1) ∧
    (-2 ^ 63 + 2 ^ 31 ≤ sval l.w ∧ sval l.w ≤ 2 ^ 63 - 2 ^ 31) ∧
    (-2 ^ 62 + 2 ^ 31 ≤ sval l.x1 * sval l.y1 ∧ sval l.x1 * sval l.y1 ≤ 2 ^ 62) ∧
    (-2 ^ 62 ≤ sval l.x1 * sval l.y1 + sval l.t / 2 ^ 32 ∧
      sval l.x1 * sval l.y1 + sval l.t / 2 ^ 32 ≤ 2 ^ 62) ∧
    (-2 ^ 62 ≤ sval l.result ∧ sval l.result ≤ 2 ^ 62)

/-- R64, `LIMB_U`: no intermediate wraps: each equals the same expression on integers, and it, the
partial sum and the result lie in the ranges the rule gives. -/
def Obligations.UnsignedLimbsNeverWrap : Prop :=
  ∀ x y : Word,
    let l := limbTraceU x y
    uval l.p = uval l.x0 * uval l.y0 ∧
    uval l.t = uval l.x1 * uval l.y0 + uval l.p / 2 ^ 32 ∧
    uval l.w = uval l.t % 2 ^ 32 + uval l.x0 * uval l.y1 ∧
    uval (l.x1 * l.y1) = uval l.x1 * uval l.y1 ∧
    uval l.result = uval l.x1 * uval l.y1 + uval l.t / 2 ^ 32 + uval l.w / 2 ^ 32 ∧
    uval l.p ≤ 2 ^ 64 - 2 ^ 33 + 1 ∧ uval l.t ≤ 2 ^ 64 - 2 ^ 32 - 1 ∧
    uval l.w ≤ 2 ^ 64 - 2 ^ 32 ∧ uval l.x1 * uval l.y1 ≤ 2 ^ 64 - 2 ^ 33 + 1 ∧
    uval l.x1 * uval l.y1 + uval l.t / 2 ^ 32 ≤ 2 ^ 64 - 2 ∧ uval l.result ≤ 2 ^ 64 - 2

/-- R65: the wrong results that a wrong shift kind in `LIMB_S` gives. -/
def Obligations.WrongShiftsShow : Prop :=
  (limbTrace .arithmetic .arithmetic .arithmetic .arithmetic
      0x00000000FFFFFFFF 0x00000000FFFFFFFF).result = 0xFFFFFFFFFFFFFFFF ∧
  mulhs 0x00000000FFFFFFFF 0x00000000FFFFFFFF = 0x0000000000000000 ∧
  (limbTrace .arithmetic .logical .logical .logical
      0xFFFFFFFFFFFFFFFF 0x0000000000000001).result = 0x00000000FFFFFFFF ∧
  mulhs 0xFFFFFFFFFFFFFFFF 0x0000000000000001 = 0xFFFFFFFFFFFFFFFF ∧
  (limbTrace .arithmetic .logical .logical .logical
      0xFFFFFFFFFFFFFFFF 0xFFFFFFFFFFFFFFFF).result = 0x0000000100000000 ∧
  mulhs 0xFFFFFFFFFFFFFFFF 0xFFFFFFFFFFFFFFFF = 0x0000000000000000

/-- R67: the limb algorithms and the native multiplies compute the two operations, for every 64-bit
`x` and `y`. -/
def Obligations.StrategiesAgree : Prop :=
  ∀ x y : Word,
    (mulhs x y = limbS x y ∧ limbS x y = nativeS x y) ∧
    (mulhu x y = limbU x y ∧ limbU x y = nativeU x y)

/-! ### Laws (40_multiply_high.md, section 3) -/

/-- R68: both operations are symmetric. -/
def Obligations.OperandsCommute : Prop :=
  ∀ x y : Word, mulhs x y = mulhs y x ∧ mulhu x y = mulhu y x

/-- R69: zero gives zero. -/
def Obligations.ZeroGivesZero : Prop :=
  ∀ y : Word, mulhs 0 y = 0 ∧ mulhu 0 y = 0

/-- R70: one gives the sign extension of the other operand's bit 63, or zero unsigned (90_conflicts.md
C1). -/
def Obligations.OneGivesSign : Prop :=
  ∀ y : Word, mulhu 1 y = 0 ∧ mulhs 1 y = (if y.getLsbD 63 then 0xFFFFFFFFFFFFFFFF else 0)

/-- R71: an all-ones operand. -/
def Obligations.AllOnesOperand : Prop :=
  ∀ y : Word,
    mulhs 0xFFFFFFFFFFFFFFFF y = (if 0 < sval y then 0xFFFFFFFFFFFFFFFF else 0) ∧
    mulhu 0xFFFFFFFFFFFFFFFF y = (if y = 0 then 0 else y - 1)

/-- R72: a power of two is a shift, of the kind of the operation; the signed minimum halves the
negated operand. -/
def Obligations.PowersOfTwoShift : Prop :=
  (∀ (k : Nat) (y : Word), k ≤ 63 → mulhu (BitVec.twoPow 64 k) y = shiftRight .logical y (64 - k)) ∧
  (∀ (k : Nat) (y : Word), k ≤ 62 →
    mulhs (BitVec.twoPow 64 k) y = shiftRight .arithmetic y (64 - k)) ∧
  (∀ y : Word, mulhs 0x8000000000000000 y = bits64 ((- sval y) / 2))

/-- R73: the signed result is the unsigned one less the correction, modulo 2^64. -/
def Obligations.SignedFromUnsigned : Prop :=
  ∀ x y : Word, mulhs x y =
    mulhu x y - (if x.getLsbD 63 then y else 0) - (if y.getLsbD 63 then x else 0)

/-- R74: negating an operand other than the signed minimum. -/
def Obligations.NegatedOperand : Prop :=
  ∀ x y : Word, x ≠ 0x8000000000000000 →
    mulhs (0 - x) y =
      (if bits64 (sval x * sval y) = 0 then 0 - mulhs x y else ~~~(mulhs x y))

/-- R75: with the low word, which is the same for both signednesses, the result is the whole 128-bit
product. -/
def Obligations.HighAndLowMakeProduct : Prop :=
  ∀ x y : Word,
    bits64 (uval x * uval y) = bits64 (sval x * sval y) ∧
    mulhu x y ++ bits64 (uval x * uval y) = bits128 (productU x y) ∧
    mulhs x y ++ bits64 (uval x * uval y) = bits128 (productS x y)

/-- R77: squares. -/
def Obligations.Squares : Prop :=
  ∀ x : Word, 0 ≤ sval (mulhs x x) ∧ (mulhs x x = 0 ↔ |sval x| < 2 ^ 32) ∧
    (mulhu x x = 0 ↔ uval x < 2 ^ 32)

/-! ### The cycle (10_state.md) -/

/-- R20, R22, R56: `MULHS` presented to a block that has it runs one cycle with the exact signed
high word incoming: shown at once when `L = 0`, entering `E[1]` when `L ≥ 1`. Nothing else of the
state changes but the model's own draw counter (assumption 4). -/
def Obligations.MulhsCompletes : Prop :=
  ∀ (a b : Word) (s : State), s.cfg.kind ≠ .unsignedOnly →
    let r : Word := BitVec.ofInt 64 ((sval a * sval b) / 2 ^ 64)
    exec (.mulhs a b) s = .next (
      if s.cfg.latency = 0 then
        { s with out := some r, stages := [], draw := s.draw + 1 }
      else
        { s with out := s.oldest, stages := some r :: s.stages.dropLast, draw := s.draw + 1 })

/-- R20, R22, R57: `MULHU` presented to a block that has it runs one cycle with the exact unsigned
high word incoming: shown at once when `L = 0`, entering `E[1]` when `L ≥ 1`. Nothing else of the
state changes but the model's own draw counter (assumption 4). -/
def Obligations.MulhuCompletes : Prop :=
  ∀ (a b : Word) (s : State), s.cfg.kind ≠ .signedOnly →
    let r : Word := BitVec.ofNat 64 ((uval a * uval b) / 2 ^ 64)
    exec (.mulhu a b) s = .next (
      if s.cfg.latency = 0 then
        { s with out := some r, stages := [], draw := s.draw + 1 }
      else
        { s with out := s.oldest, stages := some r :: s.stages.dropLast, draw := s.draw + 1 })

/-- R20 to R22: the frame of `MULHS` and `MULHU`. When either gives a next state, its result is on
the outputs (`L = 0`) or in `E[1]` (`L ≥ 1`); the outputs show the old `E[L]` and every other stage
its younger neighbour's old contents; the parameters and the requester's stream are unchanged. -/
def Obligations.OperationFrame : Prop :=
  ∀ (i : Instr) (s t : State), s.wf → exec i s = .next t →
    t.cfg = s.cfg ∧ t.stream = s.stream ∧ t.wf ∧
    (s.cfg.latency = 0 → t.out = some (resultOf i)) ∧
    (1 ≤ s.cfg.latency → t.out = s.stage s.cfg.latency ∧ t.stage 1 = some (resultOf i) ∧
      ∀ k, 2 ≤ k → k ≤ s.cfg.latency → t.stage k = s.stage (k - 1))

/-- R29, R44: when the requester presents a command word, the step is the operation it decodes to,
on the state with the rest of the stream. -/
def Obligations.StepRunsPresentedWord : Prop :=
  ∀ (s : State) (n : Nat) (xs : List Stimulus) (i : Instr), s.stream = .word n :: xs →
    decodeWord n = .ok i → step s = exec i (s.withStream xs)

/-- R21: when `L ≥ 1`, the outputs in a cycle are `E[L]`, whatever the inputs of the cycle are:
`out_valid` says whether it is `Full`, and `out_hi` is what it holds. -/
def Obligations.OutputsFromStateAlone : Prop :=
  ∀ (s t : State), s.wf → 1 ≤ s.cfg.latency → step s = .next t →
    t.out = s.stage s.cfg.latency ∧
    (t.outValid = true ↔ ∃ r, s.stage s.cfg.latency = some r) ∧
    (∀ r, s.stage s.cfg.latency = some r → t.outHi = r)

/-- R20, R22, R46: a cycle with `in_valid = 0` shifts an `Empty` stage in and changes nothing else;
when `L = 0` it shows `out_valid = 0`. That every cycle after the stream's end is such a cycle is the
model's choice beyond the `L` cycles of R109 (assumption 2). -/
def Obligations.IdleShiftsEmpty : Prop :=
  ∀ s : State, s.wf → (s.stream = [] ∨ s.stream.head? = some .idle) →
    ∃ t, step s = .next t ∧ t.cfg = s.cfg ∧ t.stream = s.stream.tail ∧ t.wf ∧
      (s.cfg.latency = 0 → t.outValid = false) ∧
      (1 ≤ s.cfg.latency → t.out = s.stage s.cfg.latency ∧ t.stage 1 = none ∧
        ∀ k, 2 ≤ k → k ≤ s.cfg.latency → t.stage k = s.stage (k - 1))

/-- R23: in a cycle with `in_valid = 0`, what `in_sel`, `in_a` and `in_b` carry has no effect: the
step is the one of `IDLE`. -/
def Obligations.IdleInputsIgnored : Prop :=
  ∀ (s : State) (p : PortDrive) (xs : List Stimulus), s.stream = .ports p :: xs →
    p.twoValued = true → (s.cfg.latency = 0 → feedsBack s.cfg p = false) →
    p.inValid = .low → p.rst = .low → step s = step (s.withStream (.idle :: xs))

/-- R41, R42, R49: an operation driven on the ports is the operation its statement presents in
serial form. -/
def Obligations.PortsAgreeWithWords : Prop :=
  ∀ (s : State) (sel : Bool) (a b : Word) (xs : List Stimulus),
    (instrOf sel a b).wf s.cfg.kind = true →
    step (s.withStream (.ports ⟨.low, .high, .value sel, .value a, .value b⟩ :: xs)) =
      step (s.withStream (.word (encodeWord (instrOf sel a b)) :: xs))

/-- R24: a single-function block behaves in every cycle as `UNIFIED` does with `in_sel` held at its
constant, 1 for `SIGNED_ONLY` and 0 for `UNSIGNED_ONLY`; and in `UNIFIED` the select is the port. -/
def Obligations.TiedSelectBehavesAsUnified : Prop :=
  (∀ (k : Kind) (v : Bool) (s : State) (p : PortDrive),
    ((k = .signedOnly ∧ v = true) ∨ (k = .unsignedOnly ∧ v = false)) →
    match portCycle { p with inSel := .value v } (s.withKind .unified) with
    | .next t => portCycle p (s.withKind k) = .next (t.withKind k)
    | .fault f => portCycle p (s.withKind k) = .fault f
    | .refused r => portCycle p (s.withKind k) = .refused r) ∧
  (∀ (s : State) (v : Bool) (a b : Word), s.cfg.kind = .unified →
    portCycle ⟨.low, .high, .value v, .value a, .value b⟩ s =
      exec (if v then .mulhs a b else .mulhu a b) s)

/-- R106, P4: when `L ≥ 1` the requester may wire this cycle's `out_hi` to `in_a`, to `in_b`, and one
bit of it to `in_sel`, in any combination: the operation issued has as that input the very value the
outputs show in this cycle, a result or, where none is due, the free value; every other input is the
value driven or the tied select. The forms of a wire (assumption 11), the draw of the free value
(assumption 4) and that an absent `in_sel` is not looked at (assumption 7) are the model's. -/
def Obligations.ChainedOperandIsShown : Prop :=
  ∀ (s : State) (p : PortDrive) (xs : List Stimulus), 1 ≤ s.cfg.latency →
    s.stream = .ports p :: xs → p.rst = .low → p.inValid = .high →
    p.inA ≠ .unknown → p.inB ≠ .unknown → (s.cfg.kind = .unified → p.inSel ≠ .unknown) →
    ∃ (t : State) (sel : Bool) (a b : Word),
      step s = .next t ∧ t.stage 1 = some (mulh sel a b) ∧
      (p.inA = .outHi → a = t.outHi) ∧ (∀ v, p.inA = .value v → a = v) ∧
      (p.inB = .outHi → b = t.outHi) ∧ (∀ v, p.inB = .value v → b = v) ∧
      (s.cfg.kind = .unified →
        (∀ k, p.inSel = .outHiBit k → sel = t.outHi.getLsbD k.val) ∧
        (∀ v, p.inSel = .value v → sel = v)) ∧
      (s.cfg.kind = .signedOnly → sel = true) ∧ (s.cfg.kind = .unsignedOnly → sel = false)

/-- R8, R13: no step changes the parameters or the number of stages, which stays `L`. -/
def Obligations.ParametersFixed : Prop :=
  ∀ s t : State, step s = .next t → t.cfg = s.cfg ∧ (s.wf → t.wf)

/-- R28: no operation carries information into another: two blocks in any two states, with the same
cycles to come and none of them wiring `out_hi` back, hold the same stages after `L` cycles. -/
def Obligations.PipelineForgets : Prop :=
  ∀ s u t v : State, s.wf → u.wf → s.cfg = u.cfg → s.stream = u.stream →
    (∀ x ∈ s.stream, x.feeds s.cfg = false) →
    Host.Core.run Sys2Proof.core s.cfg.latency s = .next t →
    Host.Core.run Sys2Proof.core u.cfg.latency u = .next v →
    t.stages = v.stages

/-! ### Reset (70_reset_and_hazards.md) -/

/-- R27: after a reset every stage is `Empty` and `out_valid` is 0, at every latency; the machine's
reset state is that of the reference configuration, `UNIFIED` with `L = 0`. That the outputs show
nothing before the first cycle of a block with `L = 0` is the model's choice (assumption 3). -/
def Obligations.ResetLeavesEmpty : Prop :=
  (∀ (c : Config) (k : Nat), (State.afterReset c).stage k = none ∧
    (State.afterReset c).outValid = false) ∧
  State.reset.cfg.kind = .unified ∧ State.reset.cfg.latency = 0 ∧ State.reset.stages = []

/-- R96, R98, R99: in a cycle with `rst = 1` the operation presented is discarded, whatever
`in_valid` shows: the edge empties every stage, while the outputs still show the old `E[L]`. -/
def Obligations.ResetWinsAndEmpties : Prop :=
  ∀ (s : State) (x : Stimulus) (xs : List Stimulus), s.wf → 1 ≤ s.cfg.latency →
    s.stream = x :: xs →
    (x = .reset ∨ ∃ p, x = .ports p ∧ p.twoValued = true ∧ p.rst = .high) →
    ∃ t, step s = .next t ∧ t.cfg = s.cfg ∧ t.stream = xs ∧ t.wf ∧
      (∀ k, t.stage k = none) ∧ t.out = s.stage s.cfg.latency

/-- R26, R100: one reset edge is enough from the unspecified power-on state: after it the block is
as after any reset, and runs the operation of the very next cycle. -/
def Obligations.OneResetEdgeBoots : Prop :=
  ∀ (c : Config) (d : Nat) (i : Instr), 1 ≤ c.latency → i.wf c.kind = true →
    ∃ t u, step ((State.powerOn c d).withStream [.reset, .word (encodeWord i)]) = .next t ∧
      t.stages = (State.afterReset c).stages ∧ step t = .next u ∧
      u.stage 1 = some (resultOf i)

/-- R99: after a reset edge `out_valid = 0` in each of the next `L` cycles, whatever the requester
does. -/
def Obligations.ResetSilencesOutputs : Prop :=
  ∀ (s : State) (x : Stimulus) (xs : List Stimulus) (k : Nat) (o : Option Word),
    s.stream = x :: xs → x.accepted s.cfg = true → x.resets s.cfg = true →
    1 ≤ k → k ≤ s.cfg.latency → (shownIn (s.cfg.latency + 1) s)[k]? = some o → o = none

/-- R97: a reset `r` cycles after an operation is issued, with `1 ≤ r ≤ L − 1`, discards it: the
outputs up to and in the reset cycle, and the whole state after it, are those of the run that never
issued it, so that it is neither delivered late nor reported as lost. -/
def Obligations.ResetDiscardsInFlight : Prop :=
  ∀ (s : State) (x y : Stimulus) (xs : List Stimulus) (r : Nat), s.wf → s.stream = x :: xs →
    x.accepted s.cfg = true → x.resets s.cfg = false →
    1 ≤ r → r + 1 ≤ s.cfg.latency →
    xs[r - 1]? = some y → y.accepted s.cfg = true → y.resets s.cfg = true →
    shownIn (r + 1) s = shownIn (r + 1) (s.withStream (.idle :: xs)) ∧
    Host.Core.run Sys2Proof.core (r + 1) s =
      Host.Core.run Sys2Proof.core (r + 1) (s.withStream (.idle :: xs))

/-! ### Refusals (60_exceptions.md section 5) -/

/-- R47: a single-function block refuses exactly the command words whose `C[128]` is not its tied
value, and runs its one operation on the others. -/
def Obligations.AbsentOperationRefused : Prop :=
  ∀ (s : State) (n : Nat) (xs : List Stimulus), n < 2 ^ 129 → s.stream = .word n :: xs →
    let a := (BitVec.ofNat 129 n).extractLsb' 64 64
    let b := (BitVec.ofNat 129 n).extractLsb' 0 64
    (s.cfg.kind = .signedOnly → step s =
      if n.testBit 128 then exec (.mulhs a b) (s.withStream xs) else .refused .operationAbsent) ∧
    (s.cfg.kind = .unsignedOnly → step s =
      if n.testBit 128 then .refused .operationAbsent else exec (.mulhu a b) (s.withStream xs))

/-- R52: a cycle is refused for an unknown input exactly when a bit of a port the block has is not 0
or 1. That a port the block lacks is not looked at (assumption 7), that an idle or a reset cycle is
refused too (assumption 10), and that with `L = 0` the unknown bit comes before a loop (assumption
11) are the model's deductions. -/
def Obligations.UnknownInputRefused : Prop :=
  ∀ (s : State) (p : PortDrive) (xs : List Stimulus), s.stream = .ports p :: xs →
    (step s = .refused .unknownInput ↔
      p.inValid = .unknown ∨ p.inA = .unknown ∨ p.inB = .unknown ∨
        (s.cfg.kind = .unified ∧ p.inSel = .unknown) ∨
        (1 ≤ s.cfg.latency ∧ p.rst = .unknown))

/-- R106: when `L = 0`, wiring `out_hi` to `in_a`, `in_b` or a port `in_sel` of the same cycle is
refused; when `L ≥ 1` no cycle is refused for it. That an idle cycle is refused for it too
(assumption 11) and that an absent `in_sel` is not looked at (assumption 7) are the model's
deductions. -/
def Obligations.CombinationalLoopRefused : Prop :=
  ∀ (s : State) (p : PortDrive) (xs : List Stimulus), s.stream = .ports p :: xs →
    p.twoValued = true →
    (step s = .refused .combinationalLoop ↔ s.cfg.latency = 0 ∧
      (p.inA = .outHi ∨ p.inB = .outHi ∨
        (s.cfg.kind = .unified ∧ ∃ k, p.inSel = .outHiBit k)))

/-- R45, R81, R95, R106: a step goes on exactly when the requester's cycle is one the block accepts;
after the stream's end it always goes on, as the model idles there (assumption 2). The model's own
part of `accepted`: `RESET` when `L = 0` (assumption 6) and a number over 129 bits (assumption 12)
are refused, idle and reset cycles with an unknown bit are refused too (assumption 10), as are idle
cycles with a loop when `L = 0` (assumption 11), and ports the block lacks are not looked at
(assumption 7). -/
def Obligations.AcceptedCyclesGoOn : Prop :=
  ∀ s : State,
    (s.stream = [] → ∃ t, step s = .next t) ∧
    (∀ x xs, s.stream = x :: xs → ((∃ t, step s = .next t) ↔ x.accepted s.cfg = true))

/-! ### Runs (70_reset_and_hazards.md sections 3 and 5) -/

/-- R22, R36, R97, R98, R102, R103: in a run of accepted cycles that wires nothing back, the outputs
in cycle `m + L` show the operation issued in cycle `m`, and nothing where none was issued or where a
reset falls in cycles `m .. m + L − 1`; the first `L` cycles show the stages the run began with,
oldest first, until a reset. -/
def Obligations.ResultsDueExactly : Prop :=
  ∀ s : State, s.wf →
    (∀ x ∈ s.stream, x.accepted s.cfg = true ∧ x.feeds s.cfg = false) →
    let l := s.cfg.latency
    let shown := shownIn (s.stream.length + l) s
    shown.length = s.stream.length + l ∧
    (∀ (m : Nat) (x : Stimulus), s.stream[m]? = some x →
      shown[m + l]? = some (if ((s.stream.drop m).take l).any (Stimulus.resets s.cfg) then none
        else x.issues s.cfg)) ∧
    (∀ m, m < l → shown[m]? =
      some (if (s.stream.take m).any (Stimulus.resets s.cfg) then none else s.stage (l - m)))

/-- R109: a run of accepted cycles is complete `L` cycles after its last statement: the stream is
used up and every stage is `Empty`. -/
def Obligations.RunCompletes : Prop :=
  ∀ s : State, s.wf → (∀ x ∈ s.stream, x.accepted s.cfg = true) →
    ∃ t, Host.Core.run Sys2Proof.core (s.stream.length + s.cfg.latency) s = .next t ∧
      t.stream = [] ∧ t.cfg = s.cfg ∧ t.stages = List.replicate s.cfg.latency none

/-- R102, R103, R105: the result of an operation issued in a cycle is on the outputs `L` cycles
later, whatever operations and bubbles follow it, if none of them is a reset or is refused. -/
def Obligations.ResultAfterLatency : Prop :=
  ∀ (s : State) (i : Instr) (xs : List Stimulus), s.wf → i.wf s.cfg.kind = true →
    s.stream = .word (encodeWord i) :: xs →
    (∀ x ∈ xs.take s.cfg.latency, x.accepted s.cfg = true ∧ x.resets s.cfg = false) →
    ∃ t, Host.Core.run Sys2Proof.core (s.cfg.latency + 1) s = .next t ∧
      t.outValid = true ∧ t.outHi = resultOf i

/-! ### The invariant -/

/-- R27: the state after a reset meets the invariant, in every configuration. -/
def Obligations.InvAfterReset : Prop :=
  (∀ c : Config, (State.afterReset c).Inv) ∧ State.reset.Inv

/-- R19, R22, R34, R47: every step keeps the invariant: the pipeline has `L` stages, and every result
in it or on the outputs is the result of an operation that the block's configuration has. -/
def Obligations.StepKeepsInv : Prop :=
  ∀ s t : State, s.Inv → step s = .next t → t.Inv

/-- R47, R59: what the invariant says of values: a `SIGNED_ONLY` block never holds or shows a result
outside [−2^62, 2^62], and an `UNSIGNED_ONLY` block never all ones. -/
def Obligations.ShownValuesInRange : Prop :=
  ∀ (s : State) (r : Word), s.Inv → (s.out = some r ∨ some r ∈ s.stages) →
    (s.cfg.kind = .signedOnly → -2 ^ 62 ≤ sval r ∧ sval r ≤ 2 ^ 62) ∧
    (s.cfg.kind = .unsignedOnly → r ≠ 0xFFFFFFFFFFFFFFFF)
end

