-- ==== Sys2Proof/Laws/Decode.lean ====
section
/-! SUPPORT. The fields of a command word (R44). -/

namespace Sys2Proof
open Sys2Proof

/-- The one bit of the select, as a bit test. -/
theorem selField_eq_getLsbD (c : CommandWord) : selField c = c.getLsbD 128 := by
  have h : c.extractLsb' 128 1 = BitVec.ofBool (c.getLsbD 128) := by
    apply BitVec.eq_of_getLsbD_eq
    intro i hi
    obtain rfl : i = 0 := by omega
    simp
  rw [selField, h]
  cases c.getLsbD 128 <;> rfl

theorem selField_commandWord (sel : Bool) (a b : Word) :
    selField (commandWord sel a b) = sel := by
  simp only [selField_eq_getLsbD, commandWord, BitVec.getLsbD_cast, BitVec.getLsbD_append]
  rw [if_neg (by decide), if_neg (by decide)]
  simp

theorem aField_commandWord (sel : Bool) (a b : Word) : aField (commandWord sel a b) = a := by
  apply BitVec.eq_of_getLsbD_eq
  intro i hi
  simp only [aField, commandWord, BitVec.getLsbD_extractLsb', BitVec.getLsbD_cast,
    BitVec.getLsbD_append, hi, decide_true, Bool.true_and]
  rw [if_neg (by omega), if_pos (by omega)]
  congr 1
  omega

theorem bField_commandWord (sel : Bool) (a b : Word) : bField (commandWord sel a b) = b := by
  apply BitVec.eq_of_getLsbD_eq
  intro i hi
  simp only [bField, commandWord, BitVec.getLsbD_extractLsb', BitVec.getLsbD_cast,
    BitVec.getLsbD_append, hi, decide_true, Bool.true_and]
  rw [if_pos (by omega)]
  congr 1
  omega

theorem wordCount_eq : wordCount = 2 ^ 129 := by decide

/-- A number of at most 129 bits decodes as its word does. -/
theorem decodeWord_of_lt (n : Nat) (h : n < 2 ^ 129) :
    decodeWord n = .ok (decode (BitVec.ofNat 129 n)) := by
  rw [decodeWord, wordCount_eq, if_pos h]

theorem decodeWord_tooWide (n : Nat) (h : ¬ n < 2 ^ 129) : decodeWord n = .error .tooWide := by
  rw [decodeWord, wordCount_eq, if_neg h]

end Sys2Proof
end

