-- ==== Sys2Proof/Laws/Operands.lean ====
section
/-! SUPPORT. What the readings of an operand and the narrowing of an integer give (R9, R10). -/

namespace Sys2Proof.Machine
open Sys2Proof

/-- `sval` is the two's-complement reading of `BitVec`. -/
theorem sval_eq_toInt (v : Word) : sval v = v.toInt := by
  rw [sval, BitVec.toInt_eq_msb_cond, BitVec.msb_eq_getLsbD_last]
  cases v.getLsbD 63 <;> simp

theorem uval_lt (v : Word) : uval v < 18446744073709551616 := v.isLt

theorem sval_range (v : Word) :
    -9223372036854775808 ≤ sval v ∧ sval v ≤ 9223372036854775807 := by
  rw [sval_eq_toInt]
  have h1 := BitVec.le_toInt v
  have h2 := BitVec.toInt_lt (x := v)
  constructor <;> omega

/-- An integer in the signed range is what its 64 bits read as. -/
theorem sval_bits64 (n : Int) (h : -9223372036854775808 ≤ n ∧ n ≤ 9223372036854775807) :
    sval (bits64 n) = n := by
  rw [sval_eq_toInt, bits64, BitVec.toInt_ofInt]
  simp only [Int.bmod]
  omega

/-- An integer in the unsigned range is what its 64 bits read as. -/
theorem uval_bits64 (n : Int) (h : 0 ≤ n ∧ n < 18446744073709551616) :
    (uval (bits64 n) : Int) = n := by
  rw [uval, bits64, BitVec.toNat_ofInt]
  omega

/-- The sign bit is the sign of the signed reading. -/
theorem sign_bit_iff (v : Word) : v.getLsbD 63 = true ↔ sval v < 0 := by
  have h : v.toNat < 18446744073709551616 := v.isLt
  rw [← BitVec.msb_eq_getLsbD_last, BitVec.msb_eq_toInt, sval_eq_toInt]
  simp

end Sys2Proof.Machine
end

