-- ==== Sys2Proof/Laws/State.lean ====
section
/-! SUPPORT. One lemma per field per update of the state. -/

namespace Sys2Proof.Machine
open Sys2Proof

@[simp] theorem State.withStream_cfg (s : State) (xs : List Stimulus) :
    (s.withStream xs).cfg = s.cfg := rfl
@[simp] theorem State.withStream_stages (s : State) (xs : List Stimulus) :
    (s.withStream xs).stages = s.stages := rfl
@[simp] theorem State.withStream_out (s : State) (xs : List Stimulus) :
    (s.withStream xs).out = s.out := rfl
@[simp] theorem State.withStream_stream (s : State) (xs : List Stimulus) :
    (s.withStream xs).stream = xs := rfl
@[simp] theorem State.withStream_draw (s : State) (xs : List Stimulus) :
    (s.withStream xs).draw = s.draw := rfl
@[simp] theorem State.withStream_oldest (s : State) (xs : List Stimulus) :
    (s.withStream xs).oldest = s.oldest := rfl
@[simp] theorem State.withStream_presentHi (s : State) (xs : List Stimulus) :
    (s.withStream xs).presentHi = s.presentHi := rfl
@[simp] theorem State.withStream_shown (s : State) (xs : List Stimulus) (o : Option Word) :
    (s.withStream xs).shown o = s.shown o := rfl
@[simp] theorem State.withStream_shifted (s : State) (xs : List Stimulus) (o : Option Word) :
    (s.withStream xs).shifted o = s.shifted o := rfl

@[simp] theorem State.cycle_cfg (s : State) (o : Option Word) : (s.cycle o).cfg = s.cfg := rfl
@[simp] theorem State.cycle_stages (s : State) (o : Option Word) :
    (s.cycle o).stages = s.shifted o := rfl
@[simp] theorem State.cycle_out (s : State) (o : Option Word) : (s.cycle o).out = s.shown o := rfl
@[simp] theorem State.cycle_stream (s : State) (o : Option Word) :
    (s.cycle o).stream = s.stream := rfl
@[simp] theorem State.cycle_draw (s : State) (o : Option Word) :
    (s.cycle o).draw = s.draw + 1 := rfl

@[simp] theorem State.resetCycle_cfg (s : State) : s.resetCycle.cfg = s.cfg := rfl
@[simp] theorem State.resetCycle_stages (s : State) :
    s.resetCycle.stages = List.replicate s.cfg.latency none := rfl
@[simp] theorem State.resetCycle_out (s : State) : s.resetCycle.out = s.oldest := rfl
@[simp] theorem State.resetCycle_stream (s : State) : s.resetCycle.stream = s.stream := rfl
@[simp] theorem State.resetCycle_draw (s : State) : s.resetCycle.draw = s.draw + 1 := rfl

@[simp] theorem State.afterReset_cfg (c : Config) : (State.afterReset c).cfg = c := rfl
@[simp] theorem State.afterReset_stages (c : Config) :
    (State.afterReset c).stages = List.replicate c.latency none := rfl
@[simp] theorem State.afterReset_out (c : Config) : (State.afterReset c).out = none := rfl
@[simp] theorem State.afterReset_stream (c : Config) : (State.afterReset c).stream = [] := rfl

end Sys2Proof.Machine
end

