-- ==== Sys2Proof/Laws/Ops.lean ====
section
/-! SUPPORT. What a cycle and a reset edge do to the stages, read as `E[1..L]` (R19 to R22, R96). -/

namespace Sys2Proof.Machine
open Sys2Proof

/-- `E[L]` is the last stage. -/
theorem State.oldest_eq_stage (s : State) (h : s.wf) : s.oldest = s.stage s.cfg.latency := by
  rw [State.oldest, State.stage, List.getLast?_eq_getElem?, h]

theorem State.shown_zero (s : State) (o : Option Word) (h : s.cfg.latency = 0) :
    s.shown o = o := by
  simp [State.shown, h]

theorem State.shown_pos (s : State) (o : Option Word) (h : s.cfg.latency ≠ 0) :
    s.shown o = s.oldest := by
  simp [State.shown, h]

theorem State.cycle_wf (s : State) (o : Option Word) (h : s.wf) : (s.cycle o).wf := by
  have h' : s.stages.length = s.cfg.latency := h
  simp only [State.wf, State.cycle_stages, State.cycle_cfg, State.shifted]
  split <;> simp_all
  omega

theorem State.resetCycle_wf (s : State) : s.resetCycle.wf := by
  simp [State.wf]

theorem State.afterReset_wf (c : Config) : (State.afterReset c).wf := by
  simp [State.wf]

/-- The incoming result enters `E[1]` (R22). -/
theorem State.cycle_stage_one (s : State) (o : Option Word) (h : s.cfg.latency ≠ 0) :
    (s.cycle o).stage 1 = o := by
  simp [State.stage, State.shifted, h]

/-- Every other stage takes its younger neighbour's old contents (R22). -/
theorem State.cycle_stage_succ (s : State) (o : Option Word) (h : s.wf) (k : Nat) (h1 : 1 ≤ k)
    (h2 : k < s.cfg.latency) : (s.cycle o).stage (k + 1) = s.stage k := by
  have h' : s.stages.length = s.cfg.latency := h
  obtain ⟨j, rfl⟩ : ∃ j, k = j + 1 := ⟨k - 1, by omega⟩
  have hl : s.cfg.latency ≠ 0 := by omega
  simp only [State.stage, State.cycle_stages, State.shifted, hl, if_false, Nat.add_sub_cancel,
    List.getElem?_cons_succ, List.getElem?_dropLast]
  rw [if_pos (by omega)]

/-- A reset edge empties every stage (R96). -/
theorem State.resetCycle_stage (s : State) (k : Nat) : s.resetCycle.stage k = none := by
  simp only [State.stage, State.resetCycle_stages, List.getElem?_replicate]
  split <;> rfl

/-- What a stage holds after a cycle is the incoming result or was in a stage before. -/
theorem State.mem_shifted (s : State) (o x : Option Word) (h : x ∈ s.shifted o) :
    x = o ∨ x ∈ s.stages := by
  unfold State.shifted at h
  split at h
  · simp at h
  · rcases List.mem_cons.mp h with h | h
    · exact .inl h
    · exact .inr (List.mem_of_mem_dropLast h)

/-- What the outputs show is the incoming result or was in a stage. -/
theorem State.shown_cases (s : State) (o : Option Word) (r : Word) (h : s.shown o = some r) :
    o = some r ∨ some r ∈ s.stages := by
  unfold State.shown at h
  split at h
  · exact .inl h
  · rw [State.oldest, Option.join_eq_some_iff] at h
    exact .inr (List.mem_of_getLast? h)

end Sys2Proof.Machine
end

