-- ==== Sys2Proof/Laws/PerInstr.lean ====
section
/-! SUPPORT. Statements about every instruction as syntax, one lemma per constructor. -/

namespace Sys2Proof.Laws.TableRow
open Sys2Proof

/-- A command word is its opcode-table row's operation: `C & mask = match` (R44). -/
def Statement (i : Instr) : Prop := encode i &&& tableMask = tableMatch i

theorem tableMask_eq_twoPow : tableMask = BitVec.twoPow 129 128 := by decide

/-- The mask keeps the select and nothing else. -/
theorem commandWord_and_mask (sel : Bool) (a b : Word) :
    commandWord sel a b &&& tableMask = if sel then BitVec.twoPow 129 128 else 0#129 := by
  rw [tableMask_eq_twoPow, BitVec.and_twoPow, ← selField_eq_getLsbD, selField_commandWord]

theorem mulhs (a b : Word) : Statement (.mulhs a b) :=
  (commandWord_and_mask true a b).trans tableMask_eq_twoPow.symm

theorem mulhu (a b : Word) : Statement (.mulhu a b) :=
  commandWord_and_mask false a b

end Sys2Proof.Laws.TableRow
end

