-- ==== Sys2Proof/Laws/Step.lean ====
section
/-! SUPPORT. Once for each function of the step: everything it can answer. -/

namespace Sys2Proof.Machine
open Sys2Proof

/-- An operation the configuration has runs one cycle with its result incoming; one it lacks is
refused (R20, R22, R47). -/
theorem exec_eq (i : Instr) (s : State) :
    exec i s = if i.wf s.cfg.kind then .next (s.cycle (some (resultOf i)))
      else .refused .operationAbsent := by
  cases i <;> simp only [exec, execMulhs, execMulhu, Instr.wf, resultOf] <;>
    cases s.cfg.kind <;> rfl

theorem exec_next (i : Instr) (s t : State) (h : exec i s = .next t) :
    i.wf s.cfg.kind = true ∧ t = s.cycle (some (resultOf i)) := by
  rw [exec_eq] at h
  split at h
  · cases h; exact ⟨‹_›, rfl⟩
  · cases h

theorem resultOf_instrOf (sel : Bool) (a b : Word) :
    resultOf (instrOf sel a b) = mulh sel a b := by
  cases sel <;> rfl

theorem instrOf_wf (k : Kind) (sel : Bool) (a b : Word) (port : Option Bool)
    (h : selEff k port = some sel) : (instrOf sel a b).wf k = true := by
  cases k <;> cases sel <;> simp_all [selEff, instrOf, Instr.wf]

/-- Sampling answers exactly when every bit of a port the block has is 0 or 1 (R52). -/
theorem samplePorts_some (c : Config) (hi : Word) (p : PortDrive) (q : PortSample)
    (h : samplePorts c hi p = some q) :
    (if c.latency = 0 then q.rst = false else readLevel p.rst = some q.rst) ∧
      readLevel p.inValid = some q.valid ∧ selEff c.kind (readSel hi p.inSel) = some q.sel ∧
      readWord hi p.inA = some q.a ∧ readWord hi p.inB = some q.b := by
  unfold samplePorts at h
  split at h
  · rename_i h1 h2 h3 h4 h5
    cases h
    refine ⟨?_, h2, h3, h4, h5⟩
    split at h1
    · simp_all
    · simp_all
  · cases h

theorem samplePorts_latency_zero (c : Config) (hi : Word) (p : PortDrive) (q : PortSample)
    (hl : c.latency = 0) (h : samplePorts c hi p = some q) : q.rst = false := by
  have := (samplePorts_some c hi p q h).1
  simpa [hl] using this

/-- A cycle that goes on is a reset edge, or a cycle without reset whose incoming result, if there
is one, is that of an operation the configuration has. -/
theorem portCycle_next (p : PortDrive) (s t : State) (h : portCycle p s = .next t) :
    (s.cfg.latency ≠ 0 ∧ t = s.resetCycle) ∨ t = s.cycle none ∨
      ∃ i : Instr, i.wf s.cfg.kind = true ∧ t = s.cycle (some (resultOf i)) := by
  unfold portCycle at h
  split at h
  · cases h
  · rename_i q hq
    split at h
    · cases h
    · split at h
      · rename_i hr
        cases h
        refine .inl ⟨fun hl => ?_, rfl⟩
        simp [samplePorts_latency_zero _ _ _ _ hl hq] at hr
      · split at h
        · exact .inr (.inr ⟨_, exec_next _ _ _ h⟩)
        · cases h; exact .inr (.inl rfl)

theorem stimulusCycle_next (x : Stimulus) (s t : State) (h : stimulusCycle x s = .next t) :
    (s.cfg.latency ≠ 0 ∧ t = s.resetCycle) ∨ t = s.cycle none ∨
      ∃ i : Instr, i.wf s.cfg.kind = true ∧ t = s.cycle (some (resultOf i)) := by
  cases x with
  | word n =>
    simp only [stimulusCycle] at h
    split at h
    · exact .inr (.inr ⟨_, exec_next _ _ _ h⟩)
    · cases h
  | idle => cases h; exact .inr (.inl rfl)
  | reset =>
    simp only [stimulusCycle] at h
    split at h
    · cases h
    · cases h; exact .inl ⟨‹_›, rfl⟩
  | ports p => exact portCycle_next p s t h

/-- A step on the head of the requester's stream. -/
theorem step_cons (s : State) (x : Stimulus) (xs : List Stimulus) (h : s.stream = x :: xs) :
    step s = stimulusCycle x (s.withStream xs) := by
  simp only [step, nextCycle, h]

/-- A step after the stream's end is a bubble (R109). -/
theorem step_nil (s : State) (h : s.stream = []) : step s = .next (s.cycle none) := by
  simp only [step, nextCycle, h, stimulusCycle]

/-- A step on `RESET` (R49, R96). -/
theorem step_reset (s : State) (xs : List Stimulus) (h : s.stream = .reset :: xs) :
    step s = if s.cfg.latency = 0 then .refused .noResetPort
      else .next (s.withStream xs).resetCycle := by
  rw [step_cons s _ xs h]
  rfl

/-- A step on driven ports whose bits are all 0 or 1 (R98, R106). -/
theorem step_ports (s : State) (p : PortDrive) (q : PortSample) (xs : List Stimulus)
    (h : s.stream = .ports p :: xs) (hq : samplePorts s.cfg s.presentHi p = some q) :
    step s = if s.cfg.latency == 0 && feedsBack s.cfg p then .refused .combinationalLoop
      else if q.rst then .next (s.withStream xs).resetCycle
      else if q.valid then exec (decode (commandWord q.sel q.a q.b)) (s.withStream xs)
      else .next ((s.withStream xs).cycle none) := by
  have hq' : samplePorts (s.withStream xs).cfg (s.withStream xs).presentHi p = some q := hq
  rw [step_cons s _ xs h, stimulusCycle, portCycle, hq']
  rfl

/-- A step on driven ports of which the block cannot sample a bit (R52). -/
theorem step_ports_unknown (s : State) (p : PortDrive) (xs : List Stimulus)
    (h : s.stream = .ports p :: xs) (hq : samplePorts s.cfg s.presentHi p = none) :
    step s = .refused .unknownInput := by
  have hq' : samplePorts (s.withStream xs).cfg (s.withStream xs).presentHi p = none := hq
  rw [step_cons s _ xs h, stimulusCycle, portCycle, hq']

/-- Everything a step can do (R22, R29, R109). -/
theorem step_next (s t : State) (h : step s = .next t) :
    (s.cfg.latency ≠ 0 ∧ t = (s.withStream s.stream.tail).resetCycle) ∨
      t = (s.withStream s.stream.tail).cycle none ∨
      ∃ i : Instr, i.wf s.cfg.kind = true ∧
        t = (s.withStream s.stream.tail).cycle (some (resultOf i)) := by
  unfold step nextCycle at h
  split at h
  · rename_i hs
    cases h
    have h0 : s.withStream [] = s := by rw [← hs]; rfl
    rw [hs, List.tail_nil, h0]
    exact .inr (.inl rfl)
  · rename_i x xs hs
    rw [hs, List.tail_cons]
    exact stimulusCycle_next x _ t h

end Sys2Proof.Machine
end

