-- ==== Sys2Proof/Tests/Slice0.lean ====
section
/-! SUPPORT. Tests, each expected value from the spec's own tables (95_test_vectors.md and the rules
named), and a witness for the hypotheses of every statement that has some. -/

namespace Sys2Proof.Tests
open Sys2Proof Sys2Proof.Machine

/-- A block after reset with cycles to come. -/
def fresh (k : Kind) (l : Nat) (xs : List Stimulus) : State :=
  (State.afterReset { kind := k, latency := l }).withStream xs

/-- A `UNIFIED` block with `L = 2` and both stages `Full`, as in P2 cycle 3. -/
def busy (xs : List Stimulus) : State :=
  { cfg := { kind := .unified, latency := 2 }
    stages := [some 0xFFFFFFFFFFFFFFFE, some 0x4000000000000000]
    out := none, stream := xs, draw := 0 }

/-- Ports driven with two-valued bits. -/
def driven (rst valid : Level) (sel : Bool) (a b : Word) : PortDrive :=
  ⟨rst, valid, .value sel, .value a, .value b⟩

/-! ### The checks refuse what is ill-formed -/

theorem test_wf_refuses :
    (Instr.mulhs 1 2).wf .unsignedOnly = false ∧ (Instr.mulhu 1 2).wf .signedOnly = false ∧
    (Instr.mulhs 1 2).wf .unified = true ∧ (Instr.mulhu 1 2).wf .unsignedOnly = true := by decide

theorem test_word_refuses :
    decodeWord 0x200000000000000000000000000000000 = .error .tooWide ∧
    decodeText ['1'] = .error .wrongLength ∧
    decodeText ('g' :: List.replicate 32 '0') = .error .notHex ∧
    decodeText ('2' :: List.replicate 32 '0') = .error .tooWide := by decide

/-- U8, and R49's ranges at both ends. -/
theorem test_literal_ranges :
    literalValue true (.dec 9223372036854775808) = .error .literalOutOfRange ∧
    literalValue true (.dec (-9223372036854775809)) = .error .literalOutOfRange ∧
    literalValue true (.dec (-9223372036854775808)) = .ok int64Min ∧
    literalValue true (.dec 9223372036854775807) = .ok 0x7FFFFFFFFFFFFFFF ∧
    literalValue false (.dec (-1)) = .error .literalOutOfRange ∧
    literalValue false (.dec 18446744073709551616) = .error .literalOutOfRange ∧
    literalValue false (.dec 0) = .ok 0 ∧
    literalValue false (.dec 18446744073709551615) = .ok uint64Max := by decide

theorem test_ill_formed_pipeline :
    ¬ ({ busy [] with stages := [none] } : State).wf ∧ (busy []).wf := by decide

/-! ### Decoding (R42, R44; the words written out bit by bit) -/

/-- `sel` = 1, `a` = 3, `b` = 5: C[128], C[65:64] and C[2], C[0]. -/
theorem test_decode_mulhs :
    decodeWord (2 ^ 128 + (2 ^ 65 + 2 ^ 64) + (2 ^ 2 + 2 ^ 0)) = .ok (.mulhs 3 5) := by decide

/-- `sel` = 0, `a` = 2^63, `b` = 2^63 + 1: C[127], C[63] and C[0]. -/
theorem test_decode_mulhu :
    decodeWord (2 ^ 127 + (2 ^ 63 + 2 ^ 0)) =
      .ok (.mulhu 0x8000000000000000 0x8000000000000001) := by decide

/-- P1 cycles 1 and 3, in both directions. -/
theorem test_encode_words :
    encodeWord (.mulhu 0xFFFFFFFFFFFFFFFF 0xFFFFFFFFFFFFFFFF)
      = 0x0FFFFFFFFFFFFFFFFFFFFFFFFFFFFFFFF ∧
    encodeWord (.mulhs 0xFFFFFFFFFFFFFFFF 0x0000000000000001)
      = 0x1FFFFFFFFFFFFFFFF0000000000000001 := by decide

/-- The two rows of the opcode table, laid out as the host asks. -/
theorem test_table_words :
    decodeTableWord 136 0x100000000000000000000000000000000 = some (.mulhs 0 0) ∧
    decodeTableWord 136 0x000000000000000000000000000000000 = some (.mulhu 0 0) ∧
    decodeTableWord 136 0x200000000000000000000000000000000 = none := by decide

/-! ### Results (95_test_vectors.md section 2) -/

/-- V4, V11, V13, V20, V21, V22, V24. -/
theorem test_mulhs_vectors :
    mulhs 0x0000000000000001 0xFFFFFFFFFFFFFFFF = 0xFFFFFFFFFFFFFFFF ∧
    mulhs 0x8000000000000000 0x7FFFFFFFFFFFFFFF = 0xC000000000000000 ∧
    mulhs 0x8000000000000000 0xFFFFFFFFFFFFFFFF = 0x0000000000000000 ∧
    mulhs 0x5555555555555555 0xAAAAAAAAAAAAAAAA = 0xE38E38E38E38E38E ∧
    mulhs 0x123456789ABCDEF0 0xFEDCBA9876543210 = 0xFFEB49923CC09532 ∧
    mulhs 0x0000000180000000 0xFFFFFFFE80000000 = 0xFFFFFFFFFFFFFFFD ∧
    mulhs 0x0000000000000003 0xAAAAAAAAAAAAAAAB = 0xFFFFFFFFFFFFFFFF := by decide

/-- V7, V9, V13, V17, V20, V21, V22, V24. -/
theorem test_mulhu_vectors :
    mulhu 0xFFFFFFFFFFFFFFFF 0xFFFFFFFFFFFFFFFF = 0xFFFFFFFFFFFFFFFE ∧
    mulhu 0xFFFFFFFFFFFFFFFF 0x0000000000000002 = 0x0000000000000001 ∧
    mulhu 0x8000000000000000 0xFFFFFFFFFFFFFFFF = 0x7FFFFFFFFFFFFFFF ∧
    mulhu 0xFFFFFFFF00000000 0xFFFFFFFF00000000 = 0xFFFFFFFE00000001 ∧
    mulhu 0x5555555555555555 0xAAAAAAAAAAAAAAAA = 0x38E38E38E38E38E3 ∧
    mulhu 0x123456789ABCDEF0 0xFEDCBA9876543210 = 0x121FA00AD77D7422 ∧
    mulhu 0x0000000180000000 0xFFFFFFFE80000000 = 0x000000017FFFFFFD ∧
    mulhu 0x0000000000000003 0xAAAAAAAAAAAAAAAB = 0x0000000000000002 := by decide

/-- Section 2.2, rows 3 and 4, with every intermediate. -/
theorem test_limb_traces :
    limbTraceS 0x123456789ABCDEF0 0xFEDCBA9876543210 =
      ⟨0x000000009ABCDEF0, 0x0000000012345678, 0x0000000076543210, 0xFFFFFFFFFEDCBA98,
        0x4785F2FE5618CF00, 0x086A1C97530ECA7E, 0xFF4FF15B236D88FE, 0xFFEB49923CC09532⟩ ∧
    limbTraceU 0xFFFFFFFFFFFFFFFF 0xFFFFFFFFFFFFFFFF =
      ⟨0x00000000FFFFFFFF, 0x00000000FFFFFFFF, 0x00000000FFFFFFFF, 0x00000000FFFFFFFF,
        0xFFFFFFFE00000001, 0xFFFFFFFEFFFFFFFF, 0xFFFFFFFF00000000, 0xFFFFFFFFFFFFFFFE⟩ := by
  decide

/-- V21 by the native multiplies (R66). -/
theorem test_native :
    nativeS 0x123456789ABCDEF0 0xFEDCBA9876543210 = 0xFFEB49923CC09532 ∧
    nativeU 0x123456789ABCDEF0 0xFEDCBA9876543210 = 0x121FA00AD77D7422 := by decide

/-! ### One step (95_test_vectors.md sections 2.3, 2.4 and 3) -/

/-- U1 and T1: with `L = 0` the result is shown in the issue cycle. -/
theorem test_mulhs_step :
    step (State.reset.withFetchWord 136 0x1FFFFFFFFFFFFFFFF0000000000000002) =
      .next { State.reset with out := some 0xFFFFFFFFFFFFFFFF, draw := 1 } := by rfl

/-- U2. -/
theorem test_mulhu_step :
    step (State.reset.withFetchWord 136 0x0FFFFFFFFFFFFFFFF0000000000000002) =
      .next { State.reset with out := some 0x0000000000000001, draw := 1 } := by rfl

/-- P2, the edge ending cycle 3: `IDLE` with both stages `Full`. -/
theorem test_idle_step :
    step (busy [.idle]) =
      .next { busy [] with
        stages := [none, some 0xFFFFFFFFFFFFFFFE], out := some 0x4000000000000000, draw := 1 } := by
  rfl

/-- R99: in the reset cycle the outputs still show the old `E[L]`, and the edge empties all. -/
theorem test_reset_step :
    step (busy [.reset]) =
      .next { busy [] with stages := [none, none], out := some 0x4000000000000000, draw := 1 } := by
  rfl

/-- T5: an operation driven with `rst = 1` is discarded. -/
theorem test_reset_wins :
    step (busy [.ports (driven .high .high true 3 5)]) =
      .next { busy [] with stages := [none, none], out := some 0x4000000000000000, draw := 1 } := by
  rfl

/-- T2: with `L = 0` a bubble shows `out_valid = 0`, and `out_hi` is the free value of its draw. -/
theorem test_bubble_step :
    step (fresh .unified 0 [.idle]) = .next { fresh .unified 0 [] with draw := 1 } ∧
    ({ fresh .unified 0 [] with draw := 1 } : State).outHi = Config.freeOutHi 1 := by
  exact ⟨rfl, rfl⟩

/-- U4, U6 and U7. -/
theorem test_refusals :
    step (fresh .signedOnly 0 [.word 0x0FFFFFFFFFFFFFFFF0000000000000002]) =
      .refused .operationAbsent ∧
    step (fresh .unsignedOnly 0 [.word 0x1FFFFFFFFFFFFFFFF0000000000000002]) =
      .refused .operationAbsent ∧
    step (fresh .unified 0 [.ports ⟨.low, .high, .unknown, .value 1, .value 1⟩]) =
      .refused .unknownInput := by
  exact ⟨rfl, rfl, rfl⟩

/-- R106, and R18 and R49 with `L = 0`. -/
theorem test_loop_refused :
    step (fresh .unified 0 [.ports ⟨.low, .high, .value true, .outHi, .value 1⟩]) =
      .refused .combinationalLoop ∧
    step (fresh .unified 0 [.reset]) = .refused .noResetPort ∧
    step (fresh .unified 0 [.word 0x200000000000000000000000000000000]) =
      .refused .notACommandWord := by
  exact ⟨rfl, rfl, rfl⟩

/-- P4, the edge ending cycle 3: r3 = `MULHS r2, INT64_MIN` with r2 wired from `out_hi`. -/
theorem test_chained_step :
    step { fresh .unified 1 [.ports ⟨.low, .high, .value true, .outHi, .value int64Min⟩] with
        stages := [some 0xFFFFFFFFFFFFFFFD] } =
      .next { fresh .unified 1 [] with
        stages := [some 0x0000000000000001], out := some 0xFFFFFFFFFFFFFFFD, draw := 1 } := by
  rfl

/-- T3's shape at `L = 1`, with its annotations (R49): the result is due one cycle after the issue. -/
theorem test_annotations :
    annotationsHold { kind := .unified, latency := 1 }
      [(.word 0x0FFFFFFFFFFFFFFFF0000000000000002, some (some 1)), (.idle, some none)] = true ∧
    annotationsHold { kind := .unified, latency := 1 }
      [(.word 0x0FFFFFFFFFFFFFFFF0000000000000002, some (some 2))] = false := by decide

/-! ### Text (R44, R49) -/

/-- U9, with a comment that annotates. -/
theorem test_assemble_line :
    assembleLine ['M', 'U', 'L', 'H', 'S', ' ', '-', '1', ',', ' ', '0', 'x', '1', ' ', ';', ' ',
        '-', '>', ' ', 'n', 'o', 'n', 'e'] =
      .ok (some (.word 0x1FFFFFFFFFFFFFFFF0000000000000001, some none)) := by rfl

theorem test_assemble_rejects :
    assembleLine ['M', 'U', 'L', 'H', 'S', ' ', '1', ',', ' ', '0', 'x'] = .error .badLiteral ∧
    assembleLine ['M', 'U', 'L', ' ', '1', ',', '1'] = .error .badStatement ∧
    assembleLine (['M', 'U', 'L', 'H', 'U', ' ', '1', ',', '0', 'x'] ++ List.replicate 17 '1') =
      .error .badLiteral ∧
    assembleLine [' ', ';', 'x'] = .ok none := by exact ⟨rfl, rfl, rfl, rfl⟩

/-- P1 cycle 2 and P2 cycle 0, and a result's text. -/
theorem test_trace_tokens :
    traceToken ['I', 'D', 'L', 'E'] = .ok .idle ∧ traceToken ['R', 'E', 'S', 'E', 'T'] = .ok .reset ∧
    traceToken ('1' :: List.replicate 32 '0') = .ok (.word 0x100000000000000000000000000000000) ∧
    resultText 0xC = List.replicate 15 '0' ++ ['C'] := by decide

/-! ### Witnesses: each meets all hypotheses of the statement it is named after -/

theorem witness_CommandTextAccepted :
    decodeText ('0' :: List.replicate 32 'a') = .ok
      (.mulhu 0xAAAAAAAAAAAAAAAA 0xAAAAAAAAAAAAAAAA) := by decide

theorem witness_DecimalLiteralsRanged :
    literalValue true (.dec (-9223372036854775808)) = .ok int64Min ∧
    literalValue false (.dec 18446744073709551615) = .ok uint64Max := by decide

theorem witness_StatementsPresentWords :
    parseLiteral ['-', '1'] = some (.dec (-1)) ∧ parseLiteral ['0', 'x', '7'] = some (.hex 7) ∧
    literalValue true (.dec (-1)) = .ok uint64Max ∧ literalValue true (.hex 7) = .ok 7 ∧
    literalValue false (.hex 7) = .ok 7 := by decide

theorem witness_SelectsDifferByCorrection :
    (int64Min.getLsbD 63 = true ∧ (1 : Word).getLsbD 63 = false ∧ (1 : Word) ≠ 0) ∧
    ((1 : Word).getLsbD 63 = false ∧ uint64Max.getLsbD 63 = true) := by decide

theorem witness_ResultRanges :
    (1 : Word) ≠ 0 ∧ uint64Max ≠ 0 ∧ uval (mulhu 1 uint64Max) < min (uval 1) (uval uint64Max) := by
  decide

/-- Each clause of R72 at the ends of its range of `k`. -/
theorem witness_PowersOfTwoShift :
    mulhu (BitVec.twoPow 64 0) uint64Max = shiftRight .logical uint64Max 64 ∧
    mulhu (BitVec.twoPow 64 63) uint64Max = shiftRight .logical uint64Max 1 ∧
    mulhs (BitVec.twoPow 64 0) uint64Max = shiftRight .arithmetic uint64Max 64 ∧
    mulhs (BitVec.twoPow 64 62) uint64Max = shiftRight .arithmetic uint64Max 2 := by decide

/-- Both branches of R74. -/
theorem witness_NegatedOperand :
    (1 : Word) ≠ int64Min ∧ bits64 (sval 1 * sval 1) ≠ 0 ∧ bits64 (sval 1 * sval 0) = 0 := by decide

theorem witness_MulhsCompletes :
    State.reset.cfg.kind ≠ .unsignedOnly ∧ State.reset.cfg.latency = 0 ∧
    (busy []).cfg.kind ≠ .unsignedOnly ∧ (busy []).cfg.latency ≠ 0 := by decide

theorem witness_MulhuCompletes :
    State.reset.cfg.kind ≠ .signedOnly ∧ State.reset.cfg.latency = 0 ∧
    (busy []).cfg.kind ≠ .signedOnly ∧ (busy []).cfg.latency ≠ 0 := by decide

theorem witness_OperationFrame :
    (∃ t, State.reset.wf ∧ exec (.mulhs 3 5) State.reset = .next t) ∧
    (∃ t, (busy []).wf ∧ 1 ≤ (busy []).cfg.latency ∧ exec (.mulhu 3 5) (busy []) = .next t) :=
  ⟨⟨_, by decide, rfl⟩, ⟨_, by decide, by decide, rfl⟩⟩

theorem witness_StepRunsPresentedWord :
    (busy [.word (encodeWord (.mulhs 3 5))]).stream = [.word (encodeWord (.mulhs 3 5))] ∧
    decodeWord (encodeWord (.mulhs 3 5)) = .ok (.mulhs 3 5) := by decide

theorem witness_OutputsFromStateAlone :
    ∃ t, (busy []).wf ∧ 1 ≤ (busy []).cfg.latency ∧ step (busy []) = .next t ∧
      (busy []).stage 2 = some 0x4000000000000000 :=
  ⟨_, by decide, by decide, rfl, rfl⟩

theorem witness_IdleShiftsEmpty :
    (busy [.idle]).wf ∧ (busy [.idle]).stream.head? = some .idle ∧ State.reset.wf ∧
    State.reset.stream = [] := by decide

theorem witness_IdleInputsIgnored :
    (busy [.ports (driven .low .low true 3 5)]).stream = [.ports (driven .low .low true 3 5)] ∧
    (driven .low .low true 3 5).twoValued = true ∧
    feedsBack Config.reference (driven .low .low true 3 5) = false := by decide

theorem witness_PortsAgreeWithWords :
    (instrOf true 3 5).wf (busy []).cfg.kind = true ∧
    (instrOf false 3 5).wf (fresh .unsignedOnly 1 []).cfg.kind = true := by decide

theorem witness_TiedSelectBehavesAsUnified :
    (Kind.signedOnly = .signedOnly ∧ true = true) ∧ (busy []).cfg.kind = .unified := by decide

/-- All three wires at once in a `UNIFIED` block, and a block whose absent `in_sel` is unknown. -/
theorem witness_ChainedOperandIsShown :
    let p : PortDrive := ⟨.low, .high, .outHiBit 63, .outHi, .outHi⟩
    let q : PortDrive := ⟨.low, .high, .unknown, .value 3, .outHi⟩
    (1 ≤ (busy [.ports p]).cfg.latency ∧ (busy [.ports p]).stream = [.ports p] ∧
      p.rst = .low ∧ p.inValid = .high ∧ p.inA ≠ .unknown ∧ p.inB ≠ .unknown ∧
      p.inSel ≠ .unknown) ∧
    (1 ≤ (fresh .signedOnly 1 [.ports q]).cfg.latency ∧
      (fresh .signedOnly 1 [.ports q]).stream = [.ports q] ∧ q.rst = .low ∧ q.inValid = .high ∧
      q.inA ≠ .unknown ∧ q.inB ≠ .unknown ∧ (fresh .signedOnly 1 []).cfg.kind ≠ .unified) := by
  decide

/-- The wired bit is bit 63 of the shown value 2^62, so `sel` = 0, and the operation is
`MULHU 2^62, 2^62` = 2^60 (R57). -/
theorem test_all_wired_step :
    step (busy [.ports ⟨.low, .high, .outHiBit 63, .outHi, .outHi⟩]) =
      .next { busy [] with
        stages := [some 0x1000000000000000, some 0xFFFFFFFFFFFFFFFE],
        out := some 0x4000000000000000, draw := 1 } := by rfl

theorem witness_ParametersFixed : ∃ t, step (busy []) = .next t ∧ (busy []).wf :=
  ⟨_, rfl, by decide⟩

theorem witness_PipelineForgets :
    ∃ t v, (busy [.idle]).wf ∧ (fresh .unified 2 [.idle]).wf ∧
      (busy [.idle]).cfg = (fresh .unified 2 [.idle]).cfg ∧
      (∀ x ∈ (busy [.idle]).stream, x.feeds (busy [.idle]).cfg = false) ∧
      Host.Core.run Sys2Proof.core 2 (busy [.idle]) = .next t ∧
      Host.Core.run Sys2Proof.core 2 (fresh .unified 2 [.idle]) = .next v :=
  ⟨_, _, by decide, by decide, by decide, by decide, rfl, rfl⟩

theorem witness_ResetWinsAndEmpties :
    (busy [.reset]).wf ∧ 1 ≤ (busy [.reset]).cfg.latency ∧ (busy [.reset]).stream = [.reset] ∧
    (driven .high .high true 3 5).twoValued = true ∧ (driven .high .high true 3 5).rst = .high := by
  decide

theorem witness_OneResetEdgeBoots :
    1 ≤ (busy []).cfg.latency ∧ (Instr.mulhs 3 5).wf (busy []).cfg.kind = true := by decide

/-- At both ends of the range of `k`. -/
theorem witness_ResetSilencesOutputs :
    (Stimulus.reset).accepted (busy []).cfg = true ∧ (Stimulus.reset).resets (busy []).cfg = true ∧
    (shownIn 3 (busy [.reset]))[1]? = some none ∧ (shownIn 3 (busy [.reset]))[2]? = some none := by
  decide

theorem witness_ResetDiscardsInFlight :
    let xs : List Stimulus := [.reset]
    let s := busy (.word (encodeWord (.mulhs 3 5)) :: xs)
    s.wf ∧ (Stimulus.word (encodeWord (.mulhs 3 5))).accepted s.cfg = true ∧
    (Stimulus.word (encodeWord (.mulhs 3 5))).resets s.cfg = false ∧ 1 + 1 ≤ s.cfg.latency ∧
    xs[1 - 1]? = some .reset ∧ (Stimulus.reset).accepted s.cfg = true ∧
    (Stimulus.reset).resets s.cfg = true := by decide

theorem witness_AbsentOperationRefused :
    0x100000000000000000000000000000000 < 2 ^ 129 ∧
    (fresh .signedOnly 1 [.word 0]).cfg.kind = .signedOnly ∧
    (fresh .unsignedOnly 1 [.word 0]).cfg.kind = .unsignedOnly ∧
    (fresh .signedOnly 1 [.word 0]).stream = [.word 0] := by decide

theorem witness_UnknownInputRefused :
    (busy [.ports (driven .unknown .low true 3 5)]).stream =
      [.ports (driven .unknown .low true 3 5)] ∧ 1 ≤ (busy []).cfg.latency := by decide

theorem witness_CombinationalLoopRefused :
    let p : PortDrive := ⟨.low, .low, .outHiBit 63, .value 1, .value 1⟩
    (fresh .unified 0 [.ports p]).stream = [.ports p] ∧ p.twoValued = true ∧
    (fresh .unified 0 [.ports p]).cfg.latency = 0 := by decide

theorem witness_AcceptedCyclesGoOn :
    (busy [.idle]).stream = [.idle] ∧ (Stimulus.idle).accepted (busy []).cfg = true ∧
    (Stimulus.reset).accepted State.reset.cfg = false ∧ State.reset.stream = [] := by decide

/-- Operations, a bubble and a reset, with a stream longer than `L`. -/
theorem witness_ResultsDueExactly :
    let s := busy [.word (encodeWord (.mulhu 3 5)), .idle, .reset,
      .ports (driven .low .high true 3 5)]
    s.wf ∧ (∀ x ∈ s.stream, x.accepted s.cfg = true ∧ x.feeds s.cfg = false) := by decide

theorem witness_RunCompletes :
    (busy [.word (encodeWord (.mulhu 3 5)), .reset]).wf ∧
    (∀ x ∈ (busy [.word (encodeWord (.mulhu 3 5)), .reset]).stream,
      x.accepted (busy []).cfg = true) := by decide

theorem witness_ResultAfterLatency :
    let xs : List Stimulus := [.idle, .word (encodeWord (.mulhs 3 5)), .reset]
    let s := busy (.word (encodeWord (.mulhu 3 5)) :: xs)
    s.wf ∧ (Instr.mulhu 3 5).wf s.cfg.kind = true ∧
    (∀ x ∈ xs.take s.cfg.latency, x.accepted s.cfg = true ∧ x.resets s.cfg = false) := by decide

/-- A state that meets the invariant with a result in the pipeline and one on the outputs. -/
theorem inv_full : ({ fresh .signedOnly 1 [] with
    stages := [some (mulhs 3 5)], out := some (mulhs 7 9) } : State).Inv := by
  refine ⟨rfl, fun r h => ?_, fun r h => ?_⟩
  · obtain rfl : r = mulhs 3 5 := by simpa [fresh] using h
    exact ⟨.mulhs 3 5, rfl, rfl⟩
  · obtain rfl : r = mulhs 7 9 := by simpa [fresh] using h.symm
    exact ⟨.mulhs 7 9, rfl, rfl⟩

theorem witness_StepKeepsInv : ∃ s t : State, s.Inv ∧ step s = .next t :=
  ⟨_, _, inv_full, rfl⟩

/-- A result in a stage and one on the outputs, in a `SIGNED_ONLY` block; and an `UNSIGNED_ONLY`
block whose only stage is `Full`. -/
theorem witness_ShownValuesInRange :
    (∃ (s : State) (r : Word), s.Inv ∧ s.out = some r ∧ s.cfg.kind = .signedOnly) ∧
    (∃ (s : State) (r : Word), s.Inv ∧ some r ∈ s.stages ∧ s.cfg.kind = .unsignedOnly) := by
  refine ⟨⟨_, _, inv_full, rfl, rfl⟩,
    { fresh .unsignedOnly 1 [] with stages := [some (mulhu 3 5)] }, mulhu 3 5, ⟨rfl, ?_, ?_⟩, ?_, rfl⟩
  · intro r h
    obtain rfl : r = mulhu 3 5 := by simpa [fresh] using h
    exact ⟨.mulhu 3 5, rfl, rfl⟩
  · intro r h
    simp [fresh] at h
  · simp

end Sys2Proof.Tests
end

section
/-! Scope (00_scope.md): what no step of the block changes. -/

namespace Sys2Proof.Machine
open Sys2Proof

/-- The parameters are fixed for a block (R8). -/
theorem step_cfg (s t : State) (h : step s = .next t) : t.cfg = s.cfg := by
  obtain ⟨-, rfl⟩ | rfl | ⟨i, -, rfl⟩ := step_next s t h
  · simp only [State.resetCycle_cfg, State.withStream_cfg]
  · simp only [State.cycle_cfg, State.withStream_cfg]
  · simp only [State.cycle_cfg, State.withStream_cfg]

/-- The pipeline keeps its `L` stages (R13, R19): a reset edge writes `L` of them, and a cycle takes
one in and drops one. -/
theorem step_wf (s t : State) (h : step s = .next t) (hs : s.wf) : t.wf := by
  have hs' : (s.withStream s.stream.tail).wf := hs
  obtain ⟨-, rfl⟩ | rfl | ⟨i, -, rfl⟩ := step_next s t h
  · exact State.resetCycle_wf _
  · exact State.cycle_wf _ none hs'
  · exact State.cycle_wf _ (some (resultOf i)) hs'

/-- Settles O37: by the three cases of `step_next`, a reset edge, a bubble and an operation. -/
theorem parametersFixed : Obligations.ParametersFixed :=
  fun s t h => ⟨step_cfg s t h, step_wf s t h⟩

end Sys2Proof.Machine
end

section
/-! The driven ports in one equation (R20, R22, R24, R52, R98, R106), and what a cycle that wires
nothing back leaves: the state and the outputs by the cycle's own `resets` and `issues`. -/

namespace Sys2Proof.Machine
open Sys2Proof

/-! ### Driven ports -/

/-- The word of a select and two operands decodes to the operation they name (R44, R45). -/
theorem decode_commandWord (sel : Bool) (a b : Word) :
    decode (commandWord sel a b) = instrOf sel a b := by
  rw [decode, selField_commandWord, aField_commandWord, bField_commandWord]

/-- The operation that the effective select names is one the block has, so it runs (R24, R47). -/
theorem exec_instrOf (s : State) (sel : Bool) (a b : Word) (port : Option Bool)
    (h : selEff s.cfg.kind port = some sel) :
    exec (instrOf sel a b) s = .next (s.cycle (some (mulh sel a b))) := by
  rw [exec_eq, if_pos (instrOf_wf _ _ _ _ _ h), resultOf_instrOf]

/-- The result of the operation sampled at the ports, if `in_valid` is 1 (R22, R55). -/
def PortSample.result (q : PortSample) : Option Word :=
  if q.valid then some (mulh q.sel q.a q.b) else none

theorem portCycle_of_sample (p : PortDrive) (s : State) (q : PortSample)
    (hq : samplePorts s.cfg s.presentHi p = some q) :
    portCycle p s = if s.cfg.latency == 0 && feedsBack s.cfg p then .refused .combinationalLoop
      else if q.rst then .next s.resetCycle else .next (s.cycle q.result) := by
  obtain ⟨-, -, hsel, -, -⟩ := samplePorts_some _ _ _ _ hq
  simp only [portCycle, hq, decode_commandWord, exec_instrOf s q.sel q.a q.b _ hsel,
    PortSample.result]
  cases q.valid <;> rfl

theorem portCycle_of_unknown (p : PortDrive) (s : State)
    (hq : samplePorts s.cfg s.presentHi p = none) : portCycle p s = .refused .unknownInput := by
  simp only [portCycle, hq]

/-- No wire leads back exactly when none meets a port the block has (R24, R106). -/
theorem feedsBack_eq_false_iff (c : Config) (p : PortDrive) :
    feedsBack c p = false ↔ p.inA ≠ .outHi ∧ p.inB ≠ .outHi ∧
      (c.kind = .unified → ∀ k, p.inSel ≠ .outHiBit k) := by
  obtain ⟨rst, inValid, inSel, inA, inB⟩ := p
  obtain ⟨kind, latency⟩ := c
  simp only [feedsBack, Bool.or_eq_false_iff, and_assoc]
  refine and_congr ?_ (and_congr ?_ ?_)
  · cases inA <;> simp
  · cases inB <;> simp
  · cases kind with
    | unified => cases inSel <;> simp
    | signedOnly => simp
    | unsignedOnly => simp

theorem readWord_of_ne_outHi (hi lo : Word) (d : WordDrive) (h : d ≠ .outHi) :
    readWord hi d = readWord lo d := by
  cases d with
  | value v => rfl
  | unknown => rfl
  | outHi => exact absurd rfl h

theorem readSel_of_ne_outHiBit (hi lo : Word) (d : SelDrive) (h : ∀ k, d ≠ .outHiBit k) :
    readSel hi d = readSel lo d := by
  cases d with
  | value v => rfl
  | unknown => rfl
  | outHiBit k => exact absurd rfl (h k)

/-- Where no wire leads back, what `out_hi` shows has no effect on what is sampled (R106). -/
theorem samplePorts_of_not_feedsBack (c : Config) (p : PortDrive) (hi lo : Word)
    (h : feedsBack c p = false) : samplePorts c hi p = samplePorts c lo p := by
  obtain ⟨hA, hB, hSel⟩ := (feedsBack_eq_false_iff c p).mp h
  have hsel : selEff c.kind (readSel hi p.inSel) = selEff c.kind (readSel lo p.inSel) := by
    cases hk : c.kind with
    | unified => exact readSel_of_ne_outHiBit hi lo p.inSel (hSel hk)
    | signedOnly => rfl
    | unsignedOnly => rfl
  simp only [samplePorts, readWord_of_ne_outHi hi lo p.inA hA,
    readWord_of_ne_outHi hi lo p.inB hB, hsel]

/-! ### Cycles that wire nothing back -/

/-- What a block leaves of a cycle `x` that it accepts and that wires nothing back (R22, R96). -/
def State.edge (s : State) (x : Stimulus) : State :=
  if x.resets s.cfg then s.resetCycle else s.cycle (x.issues s.cfg)

theorem portCycle_next_iff (p : PortDrive) (s t : State) (hp : feedsBack s.cfg p = false) :
    portCycle p s = .next t ↔
      (Stimulus.ports p).accepted s.cfg = true ∧ s.edge (.ports p) = t := by
  have hs := samplePorts_of_not_feedsBack s.cfg p s.presentHi 0#64 hp
  cases hq : samplePorts s.cfg 0#64 p with
  | none =>
    rw [portCycle_of_unknown p s (hs.trans hq)]
    simp [Stimulus.accepted, hq]
  | some q =>
    rw [portCycle_of_sample p s q (hs.trans hq)]
    cases hr : q.rst <;>
      simp [Stimulus.accepted, State.edge, Stimulus.resets, Stimulus.issues, PortSample.result,
        hq, hp, hr]

/-- A cycle that wires nothing back goes on exactly when it is accepted, and then it leaves what its
`resets` and `issues` say. -/
theorem stimulusCycle_next_iff (x : Stimulus) (s t : State) (hx : x.feeds s.cfg = false) :
    stimulusCycle x s = .next t ↔ x.accepted s.cfg = true ∧ s.edge x = t := by
  cases x with
  | word n =>
    cases hn : decodeWord n with
    | error e => simp [stimulusCycle, Stimulus.accepted, hn]
    | ok i =>
      cases hi : i.wf s.cfg.kind <;>
        simp [stimulusCycle, Stimulus.accepted, State.edge, Stimulus.resets, Stimulus.issues,
          exec_eq, hn, hi]
  | idle =>
    simp [stimulusCycle, Stimulus.accepted, State.edge, Stimulus.resets, Stimulus.issues]
  | reset =>
    by_cases hl : s.cfg.latency = 0 <;>
      simp [stimulusCycle, Stimulus.accepted, State.edge, Stimulus.resets, hl]
  | ports p => exact portCycle_next_iff p s t hx

/-- A block without stages accepts no reset (R18, R49). -/
theorem resets_latency_zero (c : Config) (x : Stimulus) (hl : c.latency = 0) :
    x.resets c = false := by
  cases x with
  | word n => rfl
  | idle => rfl
  | reset => simp [Stimulus.resets, hl]
  | ports p =>
    cases hq : samplePorts c 0#64 p with
    | none => simp [Stimulus.resets, hq]
    | some q => simpa [Stimulus.resets, hq] using samplePorts_latency_zero c _ p q hl hq

/-! ### The next state of a block whose requester wires nothing back -/

/-- The cycle the requester presents next: its stream's head, or `IDLE` after the end (R109). -/
def State.presented (s : State) : Stimulus := s.stream.headD .idle

/-- The state one accepted cycle later. -/
def State.successor (s : State) : State := (s.withStream s.stream.tail).edge s.presented

theorem step_eq_stimulusCycle (s : State) :
    step s = stimulusCycle s.presented (s.withStream s.stream.tail) := by
  cases hs : s.stream with
  | nil =>
    have h0 : s.withStream [] = s := by rw [← hs]; rfl
    simp only [step_nil s hs, State.presented, hs, List.headD_nil, List.tail_nil, h0,
      stimulusCycle]
  | cons x xs => simp only [step_cons s x xs hs, State.presented, hs, List.headD_cons,
      List.tail_cons]

@[simp] theorem State.edge_cfg (s : State) (x : Stimulus) : (s.edge x).cfg = s.cfg := by
  unfold State.edge; split <;> rfl

@[simp] theorem State.edge_stream (s : State) (x : Stimulus) : (s.edge x).stream = s.stream := by
  unfold State.edge; split <;> rfl

@[simp] theorem State.successor_cfg (s : State) : s.successor.cfg = s.cfg := by
  simp [State.successor]

@[simp] theorem State.successor_stream (s : State) : s.successor.stream = s.stream.tail := by
  simp [State.successor]

theorem State.successor_wf (s : State) (h : s.wf) : s.successor.wf := by
  unfold State.successor State.edge
  split
  · exact State.resetCycle_wf _
  · exact State.cycle_wf _ _ h

theorem State.successor_out_latency_zero (s : State) (hl : s.cfg.latency = 0) :
    s.successor.out = s.presented.issues s.cfg := by
  simp [State.successor, State.edge, resets_latency_zero, State.shown_zero, hl]

/-- The outputs are the old `E[L]`, in a reset cycle too (R21, R99). -/
theorem State.successor_out (s : State) (h : s.wf) (hl : s.cfg.latency ≠ 0) :
    s.successor.out = s.stage s.cfg.latency := by
  rw [← State.oldest_eq_stage s h]
  unfold State.successor State.edge
  split
  · rfl
  · exact State.shown_pos _ _ hl

theorem State.successor_stage_one (s : State) (hl : s.cfg.latency ≠ 0) :
    s.successor.stage 1 =
      if s.presented.resets s.cfg then none else s.presented.issues s.cfg := by
  unfold State.successor State.edge
  rw [State.withStream_cfg]
  split
  · exact State.resetCycle_stage _ 1
  · exact State.cycle_stage_one _ _ hl

theorem State.successor_stage_succ (s : State) (h : s.wf) (k : Nat) (h1 : 1 ≤ k)
    (h2 : k < s.cfg.latency) :
    s.successor.stage (k + 1) = if s.presented.resets s.cfg then none else s.stage k := by
  unfold State.successor State.edge
  rw [State.withStream_cfg]
  split
  · exact State.resetCycle_stage _ _
  · exact State.cycle_stage_succ (s.withStream s.stream.tail) _ h k h1 h2

/-- What holds of every cycle of the stream, and of `IDLE`, holds of the one presented. -/
theorem State.presented_of_forall (s : State) (P : Stimulus → Prop) (hidle : P .idle)
    (h : ∀ x ∈ s.stream, P x) : P s.presented := by
  unfold State.presented
  cases hs : s.stream with
  | nil => exact hidle
  | cons x xs => exact h x (by simp [hs])

/-- A step of a block whose requester wires nothing back can only lead to its successor. -/
theorem step_eq_successor (s t : State) (hf : ∀ x ∈ s.stream, x.feeds s.cfg = false)
    (h : step s = .next t) : t = s.successor := by
  rw [step_eq_stimulusCycle] at h
  have hx : s.presented.feeds s.cfg = false := s.presented_of_forall (·.feeds s.cfg = false) rfl hf
  exact ((stimulusCycle_next_iff s.presented (s.withStream s.stream.tail) t hx).mp h).2.symm

/-- A step on an accepted stream that wires nothing back goes on. -/
theorem step_of_accepted (s : State)
    (hs : ∀ x ∈ s.stream, x.accepted s.cfg = true ∧ x.feeds s.cfg = false) :
    step s = .next s.successor := by
  rw [step_eq_stimulusCycle]
  obtain ⟨ha, hf⟩ := s.presented_of_forall _ ⟨rfl, rfl⟩ hs
  exact (stimulusCycle_next_iff s.presented (s.withStream s.stream.tail) _ hf).mpr ⟨ha, rfl⟩

/-- A property of all cycles to come, in the block's configuration, stays one. -/
theorem State.successor_forall (s : State) (P : Config → Stimulus → Prop)
    (h : ∀ x ∈ s.stream, P s.cfg x) : ∀ x ∈ s.successor.stream, P s.successor.cfg x := by
  intro x hx
  rw [State.successor_stream] at hx
  rw [State.successor_cfg]
  exact h x (List.mem_of_mem_tail hx)

end Sys2Proof.Machine
end

section
/-! The invariant of a block that has been reset (R19, R27, R34, R47): it holds after a reset, and a
cycle that takes in a result of the block's own operations keeps it. -/

namespace Sys2Proof.Machine
open Sys2Proof

theorem State.Inv.withStream {s : State} (h : s.Inv) (xs : List Stimulus) :
    (s.withStream xs).Inv :=
  ⟨h.stages_length, h.stages_producible, h.out_producible⟩

theorem State.Inv.cycle {s : State} (h : s.Inv) (o : Option Word)
    (ho : ∀ r, o = some r → Producible s.cfg.kind r) : (s.cycle o).Inv where
  stages_length := State.cycle_wf s o h.stages_length
  stages_producible r hr := by
    obtain hr | hr := State.mem_shifted s o _ hr
    · exact ho r hr.symm
    · exact h.stages_producible r hr
  out_producible r hr := by
    obtain hr | hr := State.shown_cases s o r hr
    · exact ho r hr
    · exact h.stages_producible r hr

theorem State.Inv.resetCycle {s : State} (h : s.Inv) : s.resetCycle.Inv where
  stages_length := State.resetCycle_wf s
  stages_producible r hr := by simp at hr
  out_producible r hr := by
    have hr' : s.stages.getLast?.join = some r := hr
    exact h.stages_producible r (List.mem_of_getLast? (Option.join_eq_some_iff.mp hr'))

theorem State.afterReset_inv (c : Config) : (State.afterReset c).Inv where
  stages_length := State.afterReset_wf c
  stages_producible r hr := by simp at hr
  out_producible r hr := by simp at hr

/-- Settles O52: by the three cases of `step_next`, each keeps the invariant. -/
theorem stepKeepsInv : Obligations.StepKeepsInv := by
  intro s t hs h
  have hs' := hs.withStream s.stream.tail
  obtain ⟨-, rfl⟩ | rfl | ⟨i, hi, rfl⟩ := step_next s t h
  · exact hs'.resetCycle
  · exact hs'.cycle none nofun
  · refine hs'.cycle _ fun r hr => ?_
    cases hr
    exact ⟨i, hi, rfl⟩

/-- Settles O51: the stages are `Empty` and nothing is shown, so there is no result to account
for. -/
theorem invAfterReset : Obligations.InvAfterReset :=
  ⟨State.afterReset_inv, State.afterReset_inv Config.reference⟩

end Sys2Proof.Machine
end

section
/-! One cycle (R20 to R24, R29): the frame of an operation, the outputs, the idle inputs and the
tied select. -/

namespace Sys2Proof.Machine
open Sys2Proof

/-- Settles O29: an operation that runs is one cycle with its result incoming. -/
theorem operationFrame : Obligations.OperationFrame := by
  intro i s t hs h
  obtain ⟨-, rfl⟩ := exec_next i s t h
  refine ⟨rfl, rfl, State.cycle_wf s _ hs, fun hl => State.shown_zero s _ hl, fun hl => ?_⟩
  have hl' : s.cfg.latency ≠ 0 := by omega
  refine ⟨?_, State.cycle_stage_one s _ hl', fun k h2 hk => ?_⟩
  · rw [State.cycle_out, State.shown_pos s _ hl', State.oldest_eq_stage s hs]
  · obtain ⟨j, rfl⟩ : ∃ j, k = j + 1 := ⟨k - 1, by omega⟩
    exact State.cycle_stage_succ s _ hs j (by omega) (by omega)

/-- With `L ≥ 1` every step shows the old oldest stage (R21). -/
theorem step_out (s t : State) (hl : s.cfg.latency ≠ 0) (h : step s = .next t) :
    t.out = s.oldest := by
  obtain ⟨-, rfl⟩ | rfl | ⟨i, -, rfl⟩ := step_next s t h
  · rfl
  · exact State.shown_pos _ _ hl
  · exact State.shown_pos _ _ hl

/-- Settles O31: `step_out`, read as `out_valid` and `out_hi`. -/
theorem outputsFromStateAlone : Obligations.OutputsFromStateAlone := by
  intro s t hs hl h
  have ho : t.out = s.stage s.cfg.latency := by
    rw [step_out s t (by omega) h, State.oldest_eq_stage s hs]
  refine ⟨ho, ?_, fun r hr => ?_⟩
  · rw [State.outValid, ho, Option.isSome_iff_exists]
  · rw [State.outHi, ho, hr, Option.getD_some]

theorem exists_readLevel (l : Level) (h : l ≠ .unknown) : ∃ v, readLevel l = some v := by
  cases l with
  | low => exact ⟨_, rfl⟩
  | high => exact ⟨_, rfl⟩
  | unknown => exact absurd rfl h

theorem exists_readWord (hi : Word) (d : WordDrive) (h : d ≠ .unknown) :
    ∃ v, readWord hi d = some v := by
  cases d with
  | value v => exact ⟨_, rfl⟩
  | outHi => exact ⟨_, rfl⟩
  | unknown => exact absurd rfl h

theorem exists_selEff (k : Kind) (hi : Word) (d : SelDrive) (h : d ≠ .unknown) :
    ∃ v, selEff k (readSel hi d) = some v := by
  cases k with
  | signedOnly => exact ⟨_, rfl⟩
  | unsignedOnly => exact ⟨_, rfl⟩
  | unified =>
    cases d with
    | value v => exact ⟨_, rfl⟩
    | outHiBit b => exact ⟨_, rfl⟩
    | unknown => exact absurd rfl h

/-- Two-valued drives can be sampled, whatever ports the block has (R52). -/
theorem exists_samplePorts_of_twoValued (c : Config) (hi : Word) (p : PortDrive)
    (h : p.twoValued = true) : ∃ q, samplePorts c hi p = some q := by
  simp only [PortDrive.twoValued, Bool.and_eq_true, bne_iff_ne] at h
  obtain ⟨⟨⟨⟨hrst, hvalid⟩, hsel⟩, ha⟩, hb⟩ := h
  obtain ⟨r, hr⟩ : ∃ r, (if c.latency = 0 then some false else readLevel p.rst) = some r := by
    split
    · exact ⟨_, rfl⟩
    · exact exists_readLevel p.rst hrst
  obtain ⟨v, hv⟩ := exists_readLevel p.inValid hvalid
  obtain ⟨e, he⟩ := exists_selEff c.kind hi p.inSel hsel
  obtain ⟨a, ha⟩ := exists_readWord hi p.inA ha
  obtain ⟨b, hb⟩ := exists_readWord hi p.inB hb
  exact ⟨⟨r, v, e, a, b⟩, by simp only [samplePorts, hr, hv, he, ha, hb]⟩

/-- Settles O33: the ports are sampled with `rst` and `in_valid` at 0, so the cycle takes nothing
in. -/
theorem idleInputsIgnored : Obligations.IdleInputsIgnored := by
  intro s p xs hs htwo hloop hvalid hrst
  obtain ⟨q, hq⟩ := exists_samplePorts_of_twoValued s.cfg s.presentHi p htwo
  obtain ⟨hqr, hqv, -, -, -⟩ := samplePorts_some _ _ _ _ hq
  have hqrst : q.rst = false := by
    split at hqr
    · exact hqr
    · simpa [hrst, readLevel] using hqr.symm
  have hqvalid : q.valid = false := by simpa [hvalid, readLevel] using hqv.symm
  have hnoLoop : (s.cfg.latency == 0 && feedsBack s.cfg p) = false := by
    simpa using hloop
  rw [step_ports s p q xs hs hq, hnoLoop, hqrst, hqvalid]
  exact (step_cons (s.withStream (.idle :: xs)) .idle xs rfl).symm

section TiedSelect
variable {k : Kind} {v : Bool}

/-- A tied block samples what `UNIFIED` does with the select held at the constant (R24). -/
theorem samplePorts_tied (hk : ∀ port, selEff k port = some v) (c : Config) (hi : Word)
    (p : PortDrive) :
    samplePorts { c with kind := k } hi p =
      samplePorts { c with kind := .unified } hi { p with inSel := .value v } := by
  have hheld : selEff .unified (readSel hi (.value v)) = some v := rfl
  simp only [samplePorts, hk, hheld]

/-- A tied block has no wire to a select, and nor has a held one (R106). -/
theorem feedsBack_tied (hk : ∀ port, selEff k port = some v) (c : Config) (p : PortDrive) :
    feedsBack { c with kind := k } p =
      feedsBack { c with kind := .unified } { p with inSel := .value v } := by
  cases k with
  | unified => cases hk none
  | signedOnly => rfl
  | unsignedOnly => rfl

end TiedSelect

/-- Settles O35: sampling and the loop check agree, and the outcome depends on nothing else of the
form of the block. -/
theorem tiedSelectBehavesAsUnified : Obligations.TiedSelectBehavesAsUnified := by
  refine ⟨fun k v s p hkv => ?_, fun s v a b hk => ?_⟩
  · have hk : ∀ port, selEff k port = some v := by
      obtain ⟨rfl, rfl⟩ | ⟨rfl, rfl⟩ := hkv <;> exact fun _ => rfl
    have hsample : samplePorts (s.withKind k).cfg (s.withKind k).presentHi p =
        samplePorts (s.withKind .unified).cfg (s.withKind .unified).presentHi
          { p with inSel := .value v } := samplePorts_tied hk s.cfg _ p
    have hfeeds : feedsBack (s.withKind k).cfg p =
        feedsBack (s.withKind .unified).cfg { p with inSel := .value v } :=
      feedsBack_tied hk s.cfg p
    cases hq : samplePorts (s.withKind .unified).cfg (s.withKind .unified).presentHi
        { p with inSel := .value v } with
    | none => rw [portCycle_of_unknown _ _ hq, portCycle_of_unknown _ _ (hsample.trans hq)]
    | some q =>
      rw [portCycle_of_sample _ _ q hq, portCycle_of_sample _ _ q (hsample.trans hq), hfeeds]
      have hlat : (s.withKind k).cfg.latency = (s.withKind .unified).cfg.latency := rfl
      rw [hlat]
      split_ifs <;> rfl
  · have hsel : selEff s.cfg.kind (some v) = some v := by rw [hk]; rfl
    have hq : samplePorts s.cfg s.presentHi ⟨.low, .high, .value v, .value a, .value b⟩ =
        some ⟨false, true, v, a, b⟩ := by
      simp [samplePorts, readLevel, readSel, readWord, hsel]
    have hloop : feedsBack s.cfg ⟨.low, .high, .value v, .value a, .value b⟩ = false := by
      simp [feedsBack]
    rw [portCycle_of_sample _ s _ hq, hloop, Bool.and_false]
    exact (exec_instrOf s v a b _ hsel).symm

/-- Settles O30: the step on a stream's head that is a command word. -/
theorem stepRunsPresentedWord : Obligations.StepRunsPresentedWord := by
  intro s n xs i hs hi
  rw [step_cons s _ xs hs]
  simp only [stimulusCycle, hi]

end Sys2Proof.Machine
end

section
/-! The pipeline as a shift register (R22, R28): stage by stage, a run forgets the state it began
with. -/

namespace Sys2Proof.Machine
open Sys2Proof

/-- Two blocks with the same cycles to come hold the same in their `k` youngest stages. -/
structure State.Agree (k : Nat) (s u : State) : Prop where
  left_wf : s.wf
  right_wf : u.wf
  cfg : s.cfg = u.cfg
  stream : s.stream = u.stream
  stage : ∀ j, 1 ≤ j → j ≤ k → s.stage j = u.stage j

/-- One cycle brings both the same into `E[1]`, so one stage more agrees. -/
theorem State.Agree.successor {k : Nat} {s u : State} (h : State.Agree k s u)
    (hk : k < s.cfg.latency) : State.Agree (k + 1) s.successor u.successor where
  left_wf := State.successor_wf s h.left_wf
  right_wf := State.successor_wf u h.right_wf
  cfg := by simpa using h.cfg
  stream := by simp [h.stream]
  stage j h1 hj := by
    have hp : s.presented = u.presented := by rw [State.presented, h.stream, State.presented]
    have hku : k < u.cfg.latency := by rw [← h.cfg]; exact hk
    obtain _ | _ | i := j
    · omega
    · rw [State.successor_stage_one s (by omega), State.successor_stage_one u (by omega), hp, h.cfg]
    · rw [State.successor_stage_succ s h.left_wf (i + 1) (by omega) (by omega),
        State.successor_stage_succ u h.right_wf (i + 1) (by omega) (by omega), hp, h.cfg,
        h.stage (i + 1) (by omega) (by omega)]

/-- A run that goes on took a step that goes on. -/
theorem run_succ_next (n : Nat) (s t : State)
    (h : Host.Core.run Sys2Proof.core (n + 1) s = .next t) :
    ∃ s', step s = .next s' ∧ Host.Core.run Sys2Proof.core n s' = .next t := by
  simp only [Host.Core.run] at h
  split at h
  · rename_i s' hs
    exact ⟨s', hs, h⟩
  · cases h
  · cases h

/-- `n` cycles that wire nothing back make `n` stages more agree. -/
theorem State.Agree.run {n k : Nat} {s u t v : State} (h : State.Agree k s u)
    (hf : ∀ x ∈ s.stream, x.feeds s.cfg = false) (hk : k + n ≤ s.cfg.latency)
    (ht : Host.Core.run Sys2Proof.core n s = .next t)
    (hv : Host.Core.run Sys2Proof.core n u = .next v) : State.Agree (k + n) t v := by
  induction n generalizing k s u with
  | zero => cases ht; cases hv; exact h
  | succ n ih =>
    obtain ⟨s', hs, ht⟩ := run_succ_next n s t ht
    obtain ⟨u', hu, hv⟩ := run_succ_next n u v hv
    have hfu : ∀ x ∈ u.stream, x.feeds u.cfg = false := by rw [← h.stream, ← h.cfg]; exact hf
    obtain rfl := step_eq_successor s s' hf hs
    obtain rfl := step_eq_successor u u' hfu hu
    rw [← Nat.add_assoc, Nat.add_right_comm]
    exact ih (h.successor (by omega)) (s.successor_forall (fun c x => x.feeds c = false) hf)
      (by rw [State.successor_cfg]; omega) ht hv

theorem State.stage_succ_eq_getElem (s : State) (i : Nat) (h : i < s.stages.length) :
    s.stage (i + 1) = s.stages[i] := by
  simp [State.stage, h]

/-- Blocks that agree on all `L` stages hold the same pipeline. -/
theorem State.Agree.stages_eq {k : Nat} {s u : State} (h : State.Agree k s u)
    (hk : s.cfg.latency ≤ k) : s.stages = u.stages := by
  have hs : s.stages.length = s.cfg.latency := h.left_wf
  have hu : u.stages.length = s.cfg.latency := by rw [h.cfg]; exact h.right_wf
  refine List.ext_getElem (hs.trans hu.symm) fun i hi hi' => ?_
  rw [← State.stage_succ_eq_getElem s i hi, ← State.stage_succ_eq_getElem u i hi']
  exact h.stage (i + 1) (by omega) (by omega)

theorem run_cfg (n : Nat) (s t : State) (h : Host.Core.run Sys2Proof.core n s = .next t) :
    t.cfg = s.cfg := by
  induction n generalizing s with
  | zero => cases h; rfl
  | succ n ih =>
    obtain ⟨s', hs, h⟩ := run_succ_next n s t h
    rw [ih s' h, step_cfg s s' hs]

/-- Settles O38: nothing agrees at first, and after `L` cycles all `L` stages do. -/
theorem pipelineForgets : Obligations.PipelineForgets := by
  intro s u t v hs hu hcfg hstream hf ht hv
  have h0 : State.Agree 0 s u := ⟨hs, hu, hcfg, hstream, fun j h1 h2 => by omega⟩
  rw [← hcfg] at hv
  have hL := h0.run hf (by omega) ht hv
  exact hL.stages_eq (by rw [run_cfg _ s t ht]; omega)

end Sys2Proof.Machine
end

section
/-! What a run shows (R22, R36, R97, R98, R102, R103): first the stages it began with, then the
operations of its stream, each `L` cycles after its issue. -/

namespace Sys2Proof.Machine
open Sys2Proof

/-- Every cycle to come is accepted and wires nothing back. -/
def State.Unwired (s : State) : Prop :=
  ∀ x ∈ s.stream, x.accepted s.cfg = true ∧ x.feeds s.cfg = false

theorem State.Unwired.successor {s : State} (h : s.Unwired) : s.successor.Unwired :=
  s.successor_forall (fun c x => x.accepted c = true ∧ x.feeds c = false) h

/-- An accepted cycle, and then the rest of the run. -/
theorem shownIn_succ {s : State} (h : s.Unwired) (k : Nat) :
    shownIn (k + 1) s = s.successor.out :: shownIn k s.successor := by
  simp only [shownIn, step_of_accepted s h]

theorem length_shownIn {s : State} (h : s.Unwired) (k : Nat) : (shownIn k s).length = k := by
  induction k generalizing s with
  | zero => rfl
  | succ k ih => rw [shownIn_succ h, List.length_cons, ih h.successor]

/-- Whether a reset falls in the next `m + 1` cycles: now, or in the `m` after it. -/
theorem State.any_resets_take_succ (s : State) (m : Nat) :
    (s.stream.take (m + 1)).any (Stimulus.resets s.cfg) =
      (s.presented.resets s.cfg ||
        (s.successor.stream.take m).any (Stimulus.resets s.successor.cfg)) := by
  rw [State.successor_stream, State.successor_cfg, State.presented]
  cases s.stream with
  | nil => simp [Stimulus.resets]
  | cons x xs => rw [List.take_succ_cons, List.any_cons, List.headD_cons, List.tail_cons]

/-- The first `L` cycles show the stages the run began with, oldest first, until a reset. -/
theorem shownIn_getElem?_of_lt {s : State} (h : s.wf) (hs : s.Unwired) (m k : Nat) (hk : m < k)
    (hm : m < s.cfg.latency) :
    (shownIn k s)[m]? = some (if (s.stream.take m).any (Stimulus.resets s.cfg) then none
      else s.stage (s.cfg.latency - m)) := by
  induction m generalizing s k with
  | zero =>
    obtain ⟨k, rfl⟩ : ∃ j, k = j + 1 := ⟨k - 1, by omega⟩
    rw [shownIn_succ hs, List.getElem?_cons_zero, State.successor_out s h (by omega)]
    rfl
  | succ m ih =>
    obtain ⟨k, rfl⟩ : ∃ j, k = j + 1 := ⟨k - 1, by omega⟩
    obtain ⟨j, hj, hj1⟩ : ∃ j, s.cfg.latency - m = j + 1 ∧ 1 ≤ j :=
      ⟨s.cfg.latency - m - 1, by omega, by omega⟩
    rw [shownIn_succ hs, List.getElem?_cons_succ,
      ih (State.successor_wf s h) hs.successor k (by omega) (by rw [State.successor_cfg]; omega),
      State.any_resets_take_succ, State.successor_cfg, hj,
      State.successor_stage_succ s h j hj1 (by omega), show s.cfg.latency - (m + 1) = j by omega]
    cases s.presented.resets s.cfg <;> simp

/-- The cycle presented now is due `L` cycles later, unless it is a reset or one falls between. -/
theorem shownIn_getElem?_latency {s : State} (h : s.wf) (hs : s.Unwired) (k : Nat)
    (hk : s.cfg.latency < k) :
    (shownIn k s)[s.cfg.latency]? =
      some (if (s.stream.take s.cfg.latency).any (Stimulus.resets s.cfg) then none
        else s.presented.issues s.cfg) := by
  obtain ⟨k, rfl⟩ : ∃ j, k = j + 1 := ⟨k - 1, by omega⟩
  rw [shownIn_succ hs]
  cases hl : s.cfg.latency with
  | zero => rw [List.getElem?_cons_zero, State.successor_out_latency_zero s hl]; rfl
  | succ l =>
    rw [List.getElem?_cons_succ,
      shownIn_getElem?_of_lt (State.successor_wf s h) hs.successor l k (by omega)
        (by rw [State.successor_cfg]; omega),
      State.any_resets_take_succ, State.successor_cfg, show s.cfg.latency - l = 1 by omega,
      State.successor_stage_one s (by omega)]
    cases s.presented.resets s.cfg <;> simp

/-- The cycle presented in cycle `m` is due in cycle `m + L`. -/
theorem shownIn_getElem?_add_latency {s : State} (h : s.wf) (hs : s.Unwired) (m k : Nat)
    (x : Stimulus) (hx : s.stream[m]? = some x) (hk : m + s.cfg.latency < k) :
    (shownIn k s)[m + s.cfg.latency]? =
      some (if ((s.stream.drop m).take s.cfg.latency).any (Stimulus.resets s.cfg) then none
        else x.issues s.cfg) := by
  induction m generalizing s k with
  | zero =>
    have hp : s.presented = x := by
      rw [State.presented, List.headD_eq_head?_getD, List.head?_eq_getElem?, hx, Option.getD_some]
    rw [Nat.zero_add, List.drop_zero, ← hp]
    exact shownIn_getElem?_latency h hs k (by omega)
  | succ m ih =>
    obtain ⟨k, rfl⟩ : ∃ j, k = j + 1 := ⟨k - 1, by omega⟩
    have ih' := ih (State.successor_wf s h) hs.successor k
      (by rw [State.successor_stream, List.getElem?_tail, hx]) (by rw [State.successor_cfg]; omega)
    rw [State.successor_cfg, State.successor_stream, List.drop_tail] at ih'
    rw [shownIn_succ hs, Nat.add_right_comm, List.getElem?_cons_succ, ih']

/-- Settles O48: `length_shownIn`, and the two index lemmas over the whole run. -/
theorem resultsDueExactly : Obligations.ResultsDueExactly := by
  intro s h hs
  refine ⟨length_shownIn hs _, fun m x hx => ?_, fun m hm => ?_⟩
  · obtain ⟨hm, -⟩ := List.getElem?_eq_some_iff.mp hx
    exact shownIn_getElem?_add_latency h hs m _ x hx (by omega)
  · exact shownIn_getElem?_of_lt h hs m _ (by omega) hm

end Sys2Proof.Machine
end

section
/-! Command words and their text (R42, R44, R45): a word and its three fields are the same, so
decoding and encoding undo each other, and 33 digits write every word. -/

namespace Sys2Proof.Machine
open Sys2Proof

/-! ### Words -/

/-- Every operation is named by a select and two operands (R42). -/
theorem exists_eq_instrOf (i : Instr) : ∃ sel a b, i = instrOf sel a b := by
  cases i with
  | mulhs a b => exact ⟨true, a, b, rfl⟩
  | mulhu a b => exact ⟨false, a, b, rfl⟩

theorem encode_instrOf (sel : Bool) (a b : Word) :
    encode (instrOf sel a b) = commandWord sel a b := by
  cases sel <;> rfl

/-- A word holds its three fields and nothing else (R44). -/
theorem commandWord_fields (c : CommandWord) :
    commandWord (selField c) (aField c) (bField c) = c := by
  apply BitVec.eq_of_getLsbD_eq
  intro i hi
  simp only [commandWord, BitVec.getLsbD_cast, BitVec.getLsbD_append]
  split_ifs with hb ha
  · simp [bField, hb]
  · simp [aField, ha, show 64 + (i - 64) = i by omega]
  · obtain rfl : i = 128 := by omega
    simp [selField_eq_getLsbD]

theorem decode_encode (i : Instr) : decode (encode i) = i := by
  obtain ⟨sel, a, b, rfl⟩ := exists_eq_instrOf i
  rw [encode_instrOf, decode_commandWord]

/-- Settles O3: by `commandWord_fields`. -/
theorem encodeOfDecode : Obligations.EncodeOfDecode := by
  intro c
  rw [decode, encode_instrOf, commandWord_fields]

theorem encodeWord_lt (i : Instr) : encodeWord i < 2 ^ 129 := (encode i).isLt

theorem decodeWord_encodeWord (i : Instr) : decodeWord (encodeWord i) = .ok i := by
  rw [decodeWord_of_lt _ (encodeWord_lt i), encodeWord, BitVec.ofNat_toNat, BitVec.setWidth_eq,
    decode_encode]

/-! ### Text -/

theorem hexDigit_hexChar : ∀ d < 16, hexDigit (hexChar d) = some d := by decide

theorem length_hexText (v k : Nat) : (hexText v k).length = k := by
  induction k with
  | zero => rfl
  | succ k ih => rw [hexText, List.length_cons, ih]

/-- Reading `k` digits of `v` appends the `k` lowest digits of `v` to what was read before. -/
theorem hexValue_hexText (acc v k : Nat) :
    hexValue acc (hexText v k) = some (16 ^ k * acc + v % 16 ^ k) := by
  induction k generalizing acc with
  | zero => simp [hexText, hexValue, Nat.mod_one]
  | succ k ih =>
    simp only [hexText, hexValue, hexDigit_hexChar _ (Nat.mod_lt _ (by decide : 0 < 16)), ih]
    rw [Nat.pow_succ, Nat.mod_mul]
    ring_nf

/-- A word's first digit is its select (R44). -/
theorem head?_hexText (n : Nat) (h : n < 2 ^ 129) :
    (hexText n 33).head? = some '0' ∨ (hexText n 33).head? = some '1' := by
  rw [hexText, List.head?_cons]
  obtain hd | hd : n / 16 ^ 32 % 16 = 0 ∨ n / 16 ^ 32 % 16 = 1 := by omega
  · exact .inl (by rw [hd]; rfl)
  · exact .inr (by rw [hd]; rfl)

theorem wordOfText_hexText (n : Nat) (h : n < 2 ^ 129) : wordOfText (hexText n 33) = .ok n := by
  have hv : hexValue 0 (hexText n 33) = some n := by
    rw [hexValue_hexText, Nat.mod_eq_of_lt (by omega), Nat.mul_zero, Nat.zero_add]
  simp only [wordOfText, length_hexText, hv, wordCount_eq, h, if_true]

/-- Settles O2: the word by its fields, the number below 2^129, and the text digit by digit. -/
theorem decodeOfEncode : Obligations.DecodeOfEncode := by
  intro i
  have htext : decodeText (encodeText i) = .ok i := by
    rw [decodeText, encodeText, wordOfText_hexText _ (encodeWord_lt i)]
    exact decodeWord_encodeWord i
  exact ⟨decode_encode i, decodeWord_encodeWord i, htext, length_hexText _ _,
    head?_hexText _ (encodeWord_lt i)⟩

/-! ### The opcode table -/

theorem and_tableMask (c : CommandWord) :
    c &&& tableMask = if selField c then tableMask else 0#129 := by
  have h := Laws.TableRow.commandWord_and_mask (selField c) (aField c) (bField c)
  rwa [commandWord_fields, ← Laws.TableRow.tableMask_eq_twoPow] at h

/-- Settles O4: the mask and the decoder both look at the select alone. -/
theorem tableRowsSelect : Obligations.TableRowsSelect := by
  intro c
  have hmask : c &&& 0x100000000000000000000000000000000#129 =
      if selField c then tableMask else 0#129 := and_tableMask c
  have hdecode : decode c = instrOf (selField c) (c.extractLsb' 64 64) (c.extractLsb' 0 64) := rfl
  rw [hmask, hdecode]
  cases selField c with
  | true => simp [instrOf, tableMask]
  | false => simp [instrOf]

/-- Settles O1: three closed words, decoded. -/
theorem specWordsDecode : Obligations.SpecWordsDecode := by
  unfold Obligations.SpecWordsDecode
  decide

end Sys2Proof.Machine
end

section
/-! Assembler statements (R49, R50): the range of a decimal literal, and the cycle a statement
presents. -/

namespace Sys2Proof.Machine
open Sys2Proof

theorem decimalInRange_true_iff (n : Int) :
    decimalInRange true n = true ↔ -2 ^ 63 ≤ n ∧ n ≤ 2 ^ 63 - 1 := by
  simp [decimalInRange]

theorem decimalInRange_false_iff (n : Int) :
    decimalInRange false n = true ↔ 0 ≤ n ∧ n ≤ 2 ^ 64 - 1 := by
  simp [decimalInRange]

theorem literalValue_dec_eq_ok_iff (sel : Bool) (n : Int) (v : Word) :
    literalValue sel (.dec n) = .ok v ↔ decimalInRange sel n = true ∧ bits64 n = v := by
  simp only [literalValue]
  split <;> simp_all

theorem literalValue_dec_eq_error_iff (sel : Bool) (n : Int) :
    literalValue sel (.dec n) = .error .literalOutOfRange ↔ ¬ decimalInRange sel n = true := by
  simp only [literalValue]
  split <;> simp_all

/-- Settles O6: a literal has a value exactly in its range, and there `bits_64` loses nothing. -/
theorem decimalLiteralsRanged : Obligations.DecimalLiteralsRanged := by
  intro n
  simp only [literalValue_dec_eq_ok_iff, literalValue_dec_eq_error_iff, decimalInRange_true_iff,
    decimalInRange_false_iff, true_and, and_true, imp_self]
  refine ⟨?_, ?_⟩
  · rintro v ⟨hn, rfl⟩
    exact sval_bits64 n (by omega)
  · rintro v ⟨hn, rfl⟩
    exact uval_bits64 n (by omega)

theorem parseOperands_eq_ok (sel : Bool) (a b : List Char) (x y : Literal)
    (ha : parseLiteral a = some x) (hb : parseLiteral b = some y) :
    parseOperands sel a b = .ok (.op sel x y) := by
  simp only [parseOperands, ha, hb]

theorem statementCycle_op_eq_ok (sel : Bool) (a b : Literal) (x y : Word)
    (ha : literalValue sel a = .ok x) (hb : literalValue sel b = .ok y) :
    statementCycle (.op sel a b) = .ok (.word (encodeWord (instrOf sel x y))) := by
  simp only [statementCycle, ha, hb]

/-- Settles O7: each form parses by its own arm of `parseWords`, and the number presented is its
operation's command word. -/
theorem statementsPresentWords : Obligations.StatementsPresentWords := by
  refine ⟨fun a b x y ha hb => ?_, fun a b => ⟨rfl, rfl⟩, fun sel a b x y ha hb => ?_⟩
  · exact ⟨parseOperands_eq_ok true a b x y ha hb, parseOperands_eq_ok false a b x y ha hb⟩
  · exact ⟨_, statementCycle_op_eq_ok sel a b x y ha hb, decodeWord_encodeWord _⟩

end Sys2Proof.Machine
end

section
/-! Operations presented to a block (R41, R42, R47): a command word against the ports, and against
the operations the block has. -/

namespace Sys2Proof.Machine
open Sys2Proof

theorem exec_of_not_wf (i : Instr) (s : State) (h : i.wf s.cfg.kind = false) :
    exec i s = .refused .operationAbsent := by
  rw [exec_eq, h]
  rfl

/-- The select of an operation the block has is the effective one (R24, R47). -/
theorem selEff_of_instrOf_wf (k : Kind) (sel : Bool) (a b : Word)
    (h : (instrOf sel a b).wf k = true) : selEff k (some sel) = some sel := by
  cases k with
  | unified => rfl
  | signedOnly =>
    cases sel with
    | true => rfl
    | false => cases h
  | unsignedOnly =>
    cases sel with
    | true => cases h
    | false => rfl

/-- An operation driven on the ports runs as itself in a block that has it (R41, R42). -/
theorem portCycle_operation (s : State) (sel : Bool) (a b : Word)
    (h : (instrOf sel a b).wf s.cfg.kind = true) :
    portCycle ⟨.low, .high, .value sel, .value a, .value b⟩ s = exec (instrOf sel a b) s := by
  have hsel := selEff_of_instrOf_wf s.cfg.kind sel a b h
  have hq : samplePorts s.cfg s.presentHi ⟨.low, .high, .value sel, .value a, .value b⟩ =
      some ⟨false, true, sel, a, b⟩ := by
    simp [samplePorts, readLevel, readSel, readWord, hsel]
  have hloop : feedsBack s.cfg ⟨.low, .high, .value sel, .value a, .value b⟩ = false := by
    simp [feedsBack]
  rw [portCycle_of_sample _ s _ hq, hloop, Bool.and_false, exec_instrOf s sel a b _ hsel]
  rfl

/-- Settles O34: both cycles run the operation. -/
theorem portsAgreeWithWords : Obligations.PortsAgreeWithWords := by
  intro s sel a b xs h
  set i := instrOf sel a b
  rw [step_cons _ _ xs rfl, stepRunsPresentedWord _ _ xs i rfl (decodeWord_encodeWord i)]
  exact portCycle_operation _ sel a b h

/-- A number below 2^129 presented is the operation that its bit 128 and its operands name. -/
theorem step_word (s : State) (n : Nat) (xs : List Stimulus) (hn : n < 2 ^ 129)
    (hs : s.stream = .word n :: xs) :
    step s = exec (instrOf (n.testBit 128) (aField (BitVec.ofNat 129 n))
      (bField (BitVec.ofNat 129 n))) (s.withStream xs) := by
  have hsel : selField (BitVec.ofNat 129 n) = n.testBit 128 := by
    rw [selField_eq_getLsbD, BitVec.getLsbD_ofNat, decide_eq_true (by decide), Bool.true_and]
  rw [stepRunsPresentedWord s n xs _ hs (decodeWord_of_lt n hn), decode, hsel]

/-- Settles O44: bit 128 names the operation, and the block has it or not. -/
theorem absentOperationRefused : Obligations.AbsentOperationRefused := by
  intro s n xs hn hs
  rw [step_word s n xs hn hs]
  refine ⟨fun hk => ?_, fun hk => ?_⟩
  · cases n.testBit 128 with
    | true => rfl
    | false => exact exec_of_not_wf _ _ (by simp [instrOf, Instr.wf, hk])
  · cases n.testBit 128 with
    | true => exact exec_of_not_wf _ _ (by simp [instrOf, Instr.wf, hk])
    | false => rfl

end Sys2Proof.Machine
end

section
/-! The values of a single-function block (R47, R59): the exact products bound the results. -/

namespace Sys2Proof.Machine
open Sys2Proof

/-- The signed product reaches 2^126 in size at most (R53). -/
theorem abs_productS_le (a b : Word) : |productS a b| ≤ 2 ^ 126 := by
  have ha : |sval a| ≤ 2 ^ 63 := abs_le.mpr (by have := sval_range a; omega)
  have hb : |sval b| ≤ 2 ^ 63 := abs_le.mpr (by have := sval_range b; omega)
  calc |productS a b| = |sval a| * |sval b| := abs_mul _ _
    _ ≤ 2 ^ 63 * 2 ^ 63 := mul_le_mul ha hb (abs_nonneg _) (by decide)
    _ = 2 ^ 126 := by norm_num

/-- The unsigned product is at most (2^64 − 1)^2 (R53). -/
theorem productU_le (a b : Word) : productU a b ≤ 2 ^ 128 - 2 ^ 65 + 1 := by
  have ha := uval_lt a
  have hb := uval_lt b
  calc productU a b ≤ (2 ^ 64 - 1) * (2 ^ 64 - 1) := Nat.mul_le_mul (by omega) (by omega)
    _ = 2 ^ 128 - 2 ^ 65 + 1 := by norm_num

/-- R59, signed. -/
theorem sval_mulhs_range (a b : Word) : -2 ^ 62 ≤ sval (mulhs a b) ∧ sval (mulhs a b) ≤ 2 ^ 62 := by
  obtain ⟨hlo, hhi⟩ := abs_le.mp (abs_productS_le a b)
  have hfloor : -2 ^ 62 ≤ floorHigh (productS a b) ∧ floorHigh (productS a b) ≤ 2 ^ 62 := by
    unfold floorHigh
    omega
  rwa [mulhs, sval_bits64 _ (by omega)]

/-- R59, unsigned. -/
theorem uval_mulhu_le (a b : Word) : uval (mulhu a b) ≤ 2 ^ 64 - 2 := by
  have hp := productU_le a b
  have hfloor : 0 ≤ floorHigh (productU a b) ∧ floorHigh (productU a b) ≤ 2 ^ 64 - 2 := by
    unfold floorHigh
    omega
  have hu : (uval (mulhu a b) : Int) = floorHigh (productU a b) := uval_bits64 _ (by omega)
  omega

theorem producible_signedOnly {r : Word} (h : Producible .signedOnly r) :
    ∃ a b, mulhs a b = r := by
  obtain ⟨i, hi, hr⟩ := h
  cases i with
  | mulhs a b => exact ⟨a, b, hr⟩
  | mulhu a b => cases hi

theorem producible_unsignedOnly {r : Word} (h : Producible .unsignedOnly r) :
    ∃ a b, mulhu a b = r := by
  obtain ⟨i, hi, hr⟩ := h
  cases i with
  | mulhs a b => cases hi
  | mulhu a b => exact ⟨a, b, hr⟩

theorem State.Inv.producible {s : State} (h : s.Inv) (r : Word)
    (hr : s.out = some r ∨ some r ∈ s.stages) : Producible s.cfg.kind r :=
  hr.elim (h.out_producible r) (h.stages_producible r)

/-- Settles O53: a value held or shown is a result of the block's one operation. -/
theorem shownValuesInRange : Obligations.ShownValuesInRange := by
  intro s r hs hr
  have hprod := hs.producible r hr
  refine ⟨fun hk => ?_, fun hk hones => ?_⟩
  · rw [hk] at hprod
    obtain ⟨a, b, rfl⟩ := producible_signedOnly hprod
    exact sval_mulhs_range a b
  · rw [hk] at hprod
    obtain ⟨a, b, hab⟩ := producible_unsignedOnly hprod
    have hle := uval_mulhu_le a b
    rw [hab, hones] at hle
    exact absurd hle (by decide)

end Sys2Proof.Machine
end
section
/-! The readings of a word and their narrowings (R9, R10): a word is what it reads as, and the low
bits of an integer follow sums, products and shifts. -/

namespace Sys2Proof.Machine
open Sys2Proof

theorem sval_inj {v w : Word} : sval v = sval w ↔ v = w := by
  rw [sval_eq_toInt, sval_eq_toInt, BitVec.toInt_inj]

theorem uval_inj {v w : Word} : uval v = uval w ↔ v = w := BitVec.toNat_inj

/-- The signed reading is the unsigned one, less 2^64 for a set sign bit (R9). -/
theorem sval_eq_uval_sub (v : Word) :
    sval v = uval v - (if v.getLsbD 63 then 2 ^ 64 else 0) := rfl

@[simp] theorem sval_zero : sval 0 = 0 := rfl
@[simp] theorem sval_one : sval 1 = 1 := rfl
@[simp] theorem sval_allOnes : sval 0xFFFFFFFFFFFFFFFF = -1 := rfl
@[simp] theorem sval_int64Min : sval 0x8000000000000000 = -2 ^ 63 := rfl

@[simp] theorem uval_zero : uval 0 = 0 := rfl
@[simp] theorem uval_one : uval 1 = 1 := rfl
@[simp] theorem uval_allOnes : uval 0xFFFFFFFFFFFFFFFF = 2 ^ 64 - 1 := rfl

theorem bits64_sval (v : Word) : bits64 (sval v) = v := by
  rw [sval_eq_toInt, bits64, BitVec.ofInt_toInt]

theorem bits64_uval (v : Word) : bits64 (uval v) = v := by
  rw [bits64, BitVec.ofInt_natCast]
  exact BitVec.ofNat_toNat 64 v

theorem bits64_add (m n : Int) : bits64 (m + n) = bits64 m + bits64 n := BitVec.ofInt_add m n

theorem bits64_mul (m n : Int) : bits64 (m * n) = bits64 m * bits64 n := BitVec.ofInt_mul m n

theorem bits64_neg (n : Int) : bits64 (-n) = 0 - bits64 n := by
  rw [zero_sub]
  exact BitVec.ofInt_neg

theorem bits64_sub (m n : Int) : bits64 (m - n) = bits64 m - bits64 n := by
  rw [sub_eq_add_neg, bits64_add, bits64_neg, zero_sub, sub_eq_add_neg]

theorem bits64_eq_zero_iff (n : Int) : bits64 n = 0 ↔ n % 2 ^ 64 = 0 := by
  rw [← uval_inj, uval, uval, bits64, BitVec.toNat_ofInt]
  change _ = 0 ↔ _
  omega

theorem uval_shiftRight_logical (v : Word) (n : Nat) :
    uval (shiftRight .logical v n) = uval v / 2 ^ n := by
  rw [uval, shiftRight, BitVec.toNat_ushiftRight, Nat.shiftRight_eq_div_pow, uval]

theorem sval_shiftRight_arithmetic (v : Word) (n : Nat) :
    sval (shiftRight .arithmetic v n) = sval v / 2 ^ n := by
  rw [sval_eq_toInt, shiftRight, BitVec.toInt_sshiftRight, Int.shiftRight_eq_div_pow, sval_eq_toInt]
  norm_cast

theorem uval_lowLimb (v : Word) : uval (lowLimb v) = uval v % 2 ^ 32 := by
  rw [uval, lowLimb, BitVec.toNat_and]
  exact Nat.and_two_pow_sub_one_eq_mod _ 32

/-- The least product in `-m .. m - 1` is that of the two ends, the greatest that of `-m` and
itself (R53, R64). -/
theorem mul_bounds_of_twosComplement {m a b : Int} (ha : -m ≤ a ∧ a ≤ m - 1)
    (hb : -m ≤ b ∧ b ≤ m - 1) : -(m * m) + m ≤ a * b ∧ a * b ≤ m * m := by
  obtain ⟨ha1, ha2⟩ := ha
  obtain ⟨hb1, hb2⟩ := hb
  constructor
  · obtain h | h := le_or_gt 0 a
    · nlinarith
    · nlinarith
  · nlinarith

end Sys2Proof.Machine
end

section
/-! The exact products (R53) and the high half as their floor over 2^64 (R54, R75). -/

namespace Sys2Proof.Machine
open Sys2Proof

/-- The least signed product is that of the least and the greatest operand (R53). -/
theorem le_productS (a b : Word) : -2 ^ 126 + 2 ^ 63 ≤ productS a b :=
  (mul_bounds_of_twosComplement (m := 2 ^ 63) (sval_range a) (sval_range b)).1

theorem toInt_bits128 (n : Int) (h : -2 ^ 127 ≤ n ∧ n < 2 ^ 127) : (bits128 n).toInt = n := by
  rw [bits128, BitVec.toInt_ofInt]
  simp only [Int.bmod]
  omega

theorem toNat_bits128 (n : Nat) (h : n < 2 ^ 128) : (bits128 n).toNat = n := by
  rw [bits128, BitVec.toNat_ofInt]
  omega

/-- Settles O8: the products of the operands' ranges, which 128 bits hold. -/
theorem exactProductsFit : Obligations.ExactProductsFit := by
  intro a b
  have hlo := le_productS a b
  have hhi := le_of_abs_le (abs_productS_le a b)
  have hu := productU_le a b
  exact ⟨⟨hlo, hhi⟩, hu, toInt_bits128 _ (by omega), toNat_bits128 _ (by omega)⟩

/-- Bits [127:64] of an integer are the 64 bits of its floor over 2^64, whatever its size. -/
theorem highHalf_bits128 (n : Int) : highHalf (bits128 n) = bits64 (floorHigh n) := by
  apply BitVec.eq_of_toNat_eq
  rw [highHalf, bits128, bits64, floorHigh, BitVec.extractLsb'_toNat, BitVec.toNat_ofInt,
    BitVec.toNat_ofInt, Nat.shiftRight_eq_div_pow]
  omega

/-- The floor of the signed product needs no wrap (R54). -/
theorem sval_mulhs (a b : Word) : sval (mulhs a b) = sval a * sval b / 2 ^ 64 := by
  obtain ⟨hlo, hhi⟩ := abs_le.mp (abs_productS_le a b)
  exact sval_bits64 (floorHigh (productS a b)) (by unfold floorHigh; omega)

/-- The floor of the unsigned product needs no wrap (R54). -/
theorem uval_mulhu (a b : Word) : uval (mulhu a b) = uval a * uval b / 2 ^ 64 := by
  have hp := productU_le a b
  have hu : (uval (mulhu a b) : Int) = productU a b / 2 ^ 64 :=
    uval_bits64 (floorHigh (productU a b)) (by unfold floorHigh; omega)
  exact_mod_cast hu

/-- Settles O9: the high half of the product's 128 bits, and the two floors. -/
theorem highHalfIsFloor : Obligations.HighHalfIsFloor :=
  fun a b => ⟨highHalf_bits128 _, sval_mulhs a b, highHalf_bits128 _, uval_mulhu a b⟩

/-- A word is the signed result exactly when it reads as the floor (R56). -/
theorem mulhs_eq_iff (a b v : Word) : mulhs a b = v ↔ sval a * sval b / 2 ^ 64 = sval v := by
  rw [← sval_inj, sval_mulhs]

/-- A word is the unsigned result exactly when it reads as the floor (R57). -/
theorem mulhu_eq_iff (a b v : Word) : mulhu a b = v ↔ uval a * uval b / 2 ^ 64 = uval v := by
  rw [← uval_inj, uval_mulhu]

theorem mulhs_comm (x y : Word) : mulhs x y = mulhs y x := by
  rw [mulhs, productS, mul_comm]
  rfl

theorem mulhu_comm (x y : Word) : mulhu x y = mulhu y x := by
  rw [mulhu, productU, mul_comm]
  rfl

/-- Settles O18: the exact products commute. -/
theorem operandsCommute : Obligations.OperandsCommute :=
  fun x y => ⟨mulhs_comm x y, mulhu_comm x y⟩

/-- The two signednesses have one low word: modulo 2^64 both products are that of the words. -/
theorem bits64_products (x y : Word) : bits64 (uval x * uval y) = bits64 (sval x * sval y) := by
  rw [bits64_mul, bits64_mul, bits64_uval, bits64_uval, bits64_sval, bits64_sval]

/-- The floor over 2^64 and the low word make up the 128 bits. -/
theorem high_append_low (n : Int) : bits64 (floorHigh n) ++ bits64 n = bits128 n := by
  apply BitVec.eq_of_toNat_eq
  have hlow : (bits64 n).toNat < 2 ^ 64 := (bits64 n).isLt
  rw [BitVec.toNat_append, ← Nat.shiftLeft_add_eq_or_of_lt hlow, Nat.shiftLeft_eq, bits64, bits64,
    bits128, floorHigh, BitVec.toNat_ofInt, BitVec.toNat_ofInt, BitVec.toNat_ofInt]
  omega

/-- Settles O25: the low word is common, and high and low make up each product. -/
theorem highAndLowMakeProduct : Obligations.HighAndLowMakeProduct := by
  refine fun x y => ⟨bits64_products x y, ?_, ?_⟩
  · exact high_append_low (uval x * uval y : Nat)
  · rw [bits64_products]
    exact high_append_low (sval x * sval y)

end Sys2Proof.Machine
end

section
/-! The signed result against the unsigned one (R58, R73). -/

namespace Sys2Proof.Machine
open Sys2Proof

/-- A sign bit takes 2^64 from its operand's reading, and so the other operand from the floor. -/
theorem floorHigh_productS (x y : Word) :
    floorHigh (productS x y) = floorHigh (productU x y) -
      (if x.getLsbD 63 then sval y else 0) - (if y.getLsbD 63 then (uval x : Int) else 0) := by
  have hproduct : productS x y = (productU x y : Int) -
      2 ^ 64 * (if x.getLsbD 63 then sval y else 0) -
      2 ^ 64 * (if y.getLsbD 63 then (uval x : Int) else 0) := by
    have hx := sval_eq_uval_sub x
    have hy := sval_eq_uval_sub y
    rw [productS, productU, Nat.cast_mul]
    split_ifs at hx hy ⊢ <;> rw [hx, hy] <;> ring
  unfold floorHigh
  omega

/-- Settles O23: the floors differ by the correction, and a word is the 64 bits of either of its
readings. -/
theorem signedFromUnsigned : Obligations.SignedFromUnsigned := by
  intro x y
  rw [mulhs, mulhu, floorHigh_productS, bits64_sub, bits64_sub]
  simp only [apply_ite bits64, bits64_sval, bits64_uval]
  rfl

/-- Settles O10: the operations differ by the correction, which is the other operand when one sign
bit alone is set. -/
theorem selectsDifferByCorrection : Obligations.SelectsDifferByCorrection := by
  have hiff : ∀ a b : Word, mulhs a b ≠ mulhu a b ↔
      (if a.getLsbD 63 then b else 0) + (if b.getLsbD 63 then a else 0) ≠ (0 : Word) := by
    intro a b
    rw [signedFromUnsigned a b, sub_sub, Ne, sub_eq_self]
  refine ⟨hiff, fun a b ha hb hne => ?_, fun a b ha hb hne => ?_, by decide, by decide⟩
  · rw [hiff]
    simpa only [ha, hb, reduceIte, Bool.false_eq_true, add_zero, zero_add] using hne
  · rw [hiff]
    simpa only [ha, hb, reduceIte, Bool.false_eq_true, add_zero, zero_add] using hne

end Sys2Proof.Machine
end

section
/-! The ranges of the results (R59). -/

namespace Sys2Proof.Machine
open Sys2Proof

/-- Among the operands in `-m .. m - 1`, only `-m` times itself reaches `m * m`. -/
theorem eq_neg_of_mul_self_le {m a b : Int} (hm : 0 < m) (ha : -m ≤ a ∧ a ≤ m - 1)
    (hb : -m ≤ b ∧ b ≤ m - 1) (h : m * m ≤ a * b) : a = -m := by
  by_contra hne
  have ha' : |a| ≤ m - 1 := abs_le.mpr (by omega)
  have hb' : |b| ≤ m := abs_le.mpr (by omega)
  have hab : a * b ≤ (m - 1) * m := calc
    a * b ≤ |a * b| := le_abs_self _
    _ = |a| * |b| := abs_mul _ _
    _ ≤ (m - 1) * m := mul_le_mul ha' hb' (abs_nonneg _) (by omega)
  nlinarith

theorem eq_int64Min_of_le_productS (a b : Word) (h : 2 ^ 126 ≤ productS a b) : a = int64Min :=
  sval_inj.mp (eq_neg_of_mul_self_le (m := 2 ^ 63) (by norm_num) (sval_range a) (sval_range b) h)

/-- The greatest signed result is that of the signed minimum squared, and of nothing else. -/
theorem mulhs_eq_max_iff (a b : Word) :
    mulhs a b = 0x4000000000000000 ↔ a = int64Min ∧ b = int64Min := by
  constructor
  · intro h
    have hfloor : productS a b / 2 ^ 64 = 2 ^ 62 := (mulhs_eq_iff a b _).mp h
    have hp : 2 ^ 126 ≤ productS a b := by omega
    exact ⟨eq_int64Min_of_le_productS a b hp,
      eq_int64Min_of_le_productS b a (by rwa [productS, mul_comm])⟩
  · rintro ⟨rfl, rfl⟩
    decide

/-- R59, the bound by an operand. -/
theorem uval_mulhu_le_left (a b : Word) : uval (mulhu a b) ≤ uval a := by
  rw [uval_mulhu]
  exact Nat.div_le_of_le_mul (by rw [mul_comm]; exact Nat.mul_le_mul_right _ (uval_lt b).le)

/-- R59, the strict bound: the other operand is below 2^64. -/
theorem uval_mulhu_lt_left (a b : Word) (ha : a ≠ 0) : uval (mulhu a b) < uval a := by
  have hpos : 0 < uval a := Nat.pos_of_ne_zero fun h => ha (uval_inj.mp h)
  rw [uval_mulhu]
  exact Nat.div_lt_of_lt_mul (by rw [mul_comm]; exact Nat.mul_lt_mul_of_pos_right (uval_lt b) hpos)

/-- Settles O11: the product's range over 2^64, and the comparison with either operand. -/
theorem resultRanges : Obligations.ResultRanges := by
  refine ⟨sval_mulhs_range, by decide, mulhs_eq_max_iff, fun a b h => ?_, fun a b => ?_,
    fun a b => ⟨?_, fun ha hb => ?_⟩⟩
  · have hrange := sval_mulhs_range a b
    have hs := sval_eq_uval_sub (mulhs a b)
    split at hs <;> omega
  · have hle := uval_mulhu_le a b
    refine ⟨hle, fun h => ?_⟩
    rw [h] at hle
    exact absurd hle (by decide)
  · have hb := uval_mulhu_le_left b a
    rw [mulhu_comm] at hb
    exact le_min (uval_mulhu_le_left a b) hb
  · have hb' := uval_mulhu_lt_left b a hb
    rw [mulhu_comm] at hb'
    exact lt_min (uval_mulhu_lt_left a b ha) hb'

end Sys2Proof.Machine
end

section
/-! The laws of particular operands (R60, R69 to R72). -/

namespace Sys2Proof.Machine
open Sys2Proof

/-- Settles O19: both products are 0. -/
theorem zeroGivesZero : Obligations.ZeroGivesZero := by
  intro y
  rw [mulhs_eq_iff, mulhu_eq_iff, sval_zero, uval_zero, zero_mul, zero_mul]
  decide

theorem mulhu_one (y : Word) : mulhu 1 y = 0 := by
  have hy := uval_lt y
  rw [mulhu_eq_iff, uval_one, uval_zero]
  omega

theorem mulhs_one (y : Word) :
    mulhs 1 y = if y.getLsbD 63 then 0xFFFFFFFFFFFFFFFF else 0 := by
  have hy := sval_range y
  rw [mulhs_eq_iff, sval_one, one_mul]
  split_ifs with h <;> rw [sign_bit_iff] at h
  · rw [sval_allOnes]
    omega
  · rw [sval_zero]
    omega

/-- Settles O20: the product is the other operand, of high word 0 or, below 0, all ones. -/
theorem oneGivesSign : Obligations.OneGivesSign :=
  fun y => ⟨mulhu_one y, mulhs_one y⟩

theorem mulhs_allOnes (y : Word) :
    mulhs 0xFFFFFFFFFFFFFFFF y = if 0 < sval y then 0xFFFFFFFFFFFFFFFF else 0 := by
  have hy := sval_range y
  rw [mulhs_eq_iff, sval_allOnes]
  split_ifs with h
  · rw [sval_allOnes]
    omega
  · rw [sval_zero]
    omega

theorem mulhu_allOnes (y : Word) :
    mulhu 0xFFFFFFFFFFFFFFFF y = if y = 0 then 0 else y - 1 := by
  have hy := uval_lt y
  rw [mulhu_eq_iff, uval_allOnes]
  split_ifs with h
  · rw [h]
    rfl
  · have hpos : uval y ≠ 0 := fun h0 => h (uval_inj.mp h0)
    have hsub : uval (y - 1) = uval y - 1 := by
      rw [uval, BitVec.toNat_sub, ← uval, ← uval, uval_one]
      omega
    omega

/-- Settles O21: the product is the operand negated, or 2^64 times it less itself. -/
theorem allOnesOperand : Obligations.AllOnesOperand :=
  fun y => ⟨mulhs_allOnes y, mulhu_allOnes y⟩

/-- Settles O12: the rows with an operand `y` are laws, the others closed. -/
theorem cornerCases : Obligations.CornerCases := by
  refine ⟨zeroGivesZero, fun y => ⟨mulhs_one y, mulhu_one y⟩, fun y => ⟨mulhs_allOnes y, ?_⟩,
    by decide⟩
  rw [mulhu_allOnes, ite_not]

theorem uval_twoPow (k : Nat) (h : k ≤ 63) : uval (BitVec.twoPow 64 k) = 2 ^ k := by
  rw [uval, BitVec.toNat_twoPow]
  exact Nat.mod_eq_of_lt (Nat.pow_lt_pow_right (by decide) (by omega))

theorem sval_twoPow (k : Nat) (h : k ≤ 62) : sval (BitVec.twoPow 64 k) = 2 ^ k := by
  rw [sval_eq_toInt, BitVec.toInt_twoPow, if_neg (by omega), if_neg (by omega)]

/-- Settles O22: `2^k` over 2^64 is one over 2^(64 − k), and the signed minimum over 2^64 is minus
one half. -/
theorem powersOfTwoShift : Obligations.PowersOfTwoShift := by
  refine ⟨fun k y hk => ?_, fun k y hk => ?_, fun y => ?_⟩
  · have hsplit : 2 ^ 64 = 2 ^ k * 2 ^ (64 - k) := by rw [← pow_add]; congr 1; omega
    rw [mulhu_eq_iff, uval_twoPow k hk, uval_shiftRight_logical, hsplit]
    exact Nat.mul_div_mul_left _ _ (by positivity)
  · have hsplit : (2 : Int) ^ 64 = 2 ^ k * 2 ^ (64 - k) := by rw [← pow_add]; congr 1; omega
    rw [mulhs_eq_iff, sval_twoPow k hk, sval_shiftRight_arithmetic, hsplit]
    exact Int.mul_ediv_mul_of_pos _ _ (by positivity)
  · rw [mulhs, productS, floorHigh, sval_int64Min]
    congr 1
    omega

end Sys2Proof.Machine
end

section
/-! Negation and squares (R74, R77). -/

namespace Sys2Proof.Machine
open Sys2Proof

theorem sval_neg (x : Word) (h : x ≠ 0x8000000000000000) : sval (0 - x) = -sval x := by
  rw [zero_sub, sval_eq_toInt, sval_eq_toInt]
  exact BitVec.toInt_neg_of_ne_intMin h

theorem floorHigh_neg (n : Int) :
    floorHigh (-n) = if n % 2 ^ 64 = 0 then -floorHigh n else -floorHigh n - 1 := by
  unfold floorHigh
  split_ifs <;> omega

theorem not_bits64 (n : Int) : ~~~(bits64 n) = bits64 (-n - 1) := by
  rw [bits64_sub, bits64_neg, zero_sub, BitVec.not_eq_neg_add]
  rfl

/-- Settles O24: the product is negated, and the floor of `-n` is minus that of `n`, less one unless
2^64 divides `n`. -/
theorem negatedOperand : Obligations.NegatedOperand := by
  intro x y hx
  have hp : productS (0 - x) y = -(sval x * sval y) := by
    rw [productS, sval_neg x hx, neg_mul]
  rw [mulhs, hp, floorHigh_neg, mulhs, productS, not_bits64, ← bits64_neg]
  simp only [bits64_eq_zero_iff, apply_ite bits64]

/-- Settles O26: a square is not negative, and is below 2^64 exactly when its root is below 2^32. -/
theorem squares : Obligations.Squares := by
  intro x
  have hsq : 0 ≤ sval x * sval x := mul_self_nonneg _
  have hs : |sval x| < 2 ^ 32 ↔ sval x * sval x < 2 ^ 64 := by
    rw [← abs_mul_abs_self (sval x)]
    exact (mul_self_lt_mul_self_iff (abs_nonneg _) (by norm_num)).trans (by norm_num)
  have hu : uval x < 2 ^ 32 ↔ uval x * uval x < 2 ^ 64 :=
    Nat.mul_self_lt_mul_self_iff.symm
  rw [sval_mulhs, mulhs_eq_iff, mulhu_eq_iff, sval_zero, uval_zero, hs, hu]
  omega

end Sys2Proof.Machine
end
section
/-! The limb algorithm on integers (R62 to R64): `c` is the least high limb, 0 in the unsigned split
and −2^31 in the signed one. -/

namespace Sys2Proof.Machine
open Sys2Proof

/-- The reading that a shift of this kind divides (R9, R10). -/
def reading : ShiftKind → Word → Int
  | .logical, v => uval v
  | .arithmetic, v => sval v

/-- The least high limb of an operand (R61). -/
def leastLimb : ShiftKind → Int
  | .logical => 0
  | .arithmetic => -2 ^ 31

theorem leastLimb_range (k : ShiftKind) : -2 ^ 31 ≤ leastLimb k ∧ leastLimb k ≤ 0 := by
  cases k <;> decide

theorem bits64_reading (k : ShiftKind) (v : Word) : bits64 (reading k v) = v := by
  cases k with
  | logical => exact bits64_uval v
  | arithmetic => exact bits64_sval v

theorem reading_shiftRight (k : ShiftKind) (v : Word) (n : Nat) :
    reading k (shiftRight k v n) = reading k v / 2 ^ n := by
  cases k with
  | logical =>
    change (uval (shiftRight .logical v n) : Int) = uval v / 2 ^ n
    exact_mod_cast uval_shiftRight_logical v n
  | arithmetic => exact sval_shiftRight_arithmetic v n

theorem uval_lowLimb_eq_reading (k : ShiftKind) (v : Word) :
    (uval (lowLimb v) : Int) = reading k v % 2 ^ 32 := by
  rw [uval_lowLimb]
  cases k with
  | logical => exact Int.natCast_emod _ _
  | arithmetic =>
    rw [reading, sval_eq_uval_sub]
    split_ifs <;> omega

theorem reading_range (k : ShiftKind) (v : Word) :
    leastLimb k * 2 ^ 32 ≤ reading k v ∧ reading k v < leastLimb k * 2 ^ 32 + 2 ^ 64 := by
  cases k with
  | logical =>
    have h := uval_lt v
    simp only [reading, leastLimb]
    omega
  | arithmetic =>
    have h := sval_range v
    simp only [reading, leastLimb]
    omega

/-- An integer in a reading's range is what its 64 bits read as. -/
theorem reading_bits64 (k : ShiftKind) (n : Int)
    (h : leastLimb k * 2 ^ 32 ≤ n ∧ n < leastLimb k * 2 ^ 32 + 2 ^ 64) :
    reading k (bits64 n) = n := by
  cases k with
  | logical => exact uval_bits64 n (by simp only [leastLimb] at h; omega)
  | arithmetic => exact sval_bits64 n (by simp only [leastLimb] at h; omega)

/-- R61: the limbs make up the reading, and each lies in its range. -/
theorem reading_eq_limbs (k : ShiftKind) (v : Word) :
    reading k v = reading k (shiftRight k v 32) * 2 ^ 32 + uval (lowLimb v) := by
  rw [reading_shiftRight, uval_lowLimb_eq_reading k]
  omega

theorem lowLimb_range (v : Word) :
    0 ≤ (uval (lowLimb v) : Int) ∧ (uval (lowLimb v) : Int) ≤ 2 ^ 32 - 1 := by
  rw [uval_lowLimb]
  omega

theorem highLimb_range (k : ShiftKind) (v : Word) :
    leastLimb k ≤ reading k (shiftRight k v 32) ∧
      reading k (shiftRight k v 32) ≤ leastLimb k + (2 ^ 32 - 1) := by
  have h := reading_range k v
  rw [reading_shiftRight]
  omega

/-- Settles O13: the split by a shift of either kind. -/
theorem limbSplit : Obligations.LimbSplit := by
  intro v
  have hlow := (lowLimb_range v).2
  have hs := highLimb_range .arithmetic v
  have hu := highLimb_range .logical v
  have heqs := reading_eq_limbs .arithmetic v
  have hequ := reading_eq_limbs .logical v
  simp only [reading, leastLimb] at hs hu heqs hequ
  refine ⟨by omega, by omega, by omega, heqs, by omega⟩

section
variable {c m x0 x1 y0 y1 p t w : Int}

/-- A high limb times a low one. -/
theorem mul_limb_bounds {h b : Int} (hc : -m ≤ c ∧ c ≤ 0) (hh : c ≤ h ∧ h ≤ c + m)
    (hb : 0 ≤ b ∧ b ≤ m) : c * m ≤ h * b ∧ h * b ≤ (c + m) * m := by
  constructor
  · calc c * m ≤ c * b := mul_le_mul_of_nonpos_left hb.2 hc.2
      _ ≤ h * b := mul_le_mul_of_nonneg_right hh.1 hb.1
  · calc h * b ≤ (c + m) * b := mul_le_mul_of_nonneg_right hh.2 hb.1
      _ ≤ (c + m) * m := mul_le_mul_of_nonneg_left hb.2 (by omega)

/-- The algorithm's sum of floors is the floor of the product (R67). -/
theorem limb_sum_eq_floor (hp : p = x0 * y0) (ht : t = x1 * y0 + p / 2 ^ 32)
    (hw : w = t % 2 ^ 32 + x0 * y1) :
    x1 * y1 + t / 2 ^ 32 + w / 2 ^ 32 = (x1 * 2 ^ 32 + x0) * (y1 * 2 ^ 32 + y0) / 2 ^ 64 := by
  have hproduct : (x1 * 2 ^ 32 + x0) * (y1 * 2 ^ 32 + y0) =
      x1 * y1 * 2 ^ 64 + x1 * y0 * 2 ^ 32 + x0 * y1 * 2 ^ 32 + p := by
    rw [hp]
    ring
  omega

/-- The partial sum is a floor too: of a high limb times the whole operand (R64). -/
theorem limb_partial_sum_eq_floor (ht : t = x1 * y0 + p / 2 ^ 32) :
    x1 * y1 + t / 2 ^ 32 = (x1 * (y1 * 2 ^ 32 + y0) + p / 2 ^ 32) / 2 ^ 32 := by
  rw [mul_add, ← mul_assoc]
  omega
end

end Sys2Proof.Machine
end

section
/-! The limb algorithm on words, of either kind `k`: no intermediate wraps (R64), and the result is
the floor of the product (R67). -/

namespace Sys2Proof.Machine
open Sys2Proof

/-- The limb algorithm with every shift of kind `k`, except the low product's (R62, R63). -/
def limbTraceOf (k : ShiftKind) (x y : Word) : LimbTrace := limbTrace k .logical k k x y

theorem limbTraceS_eq (x y : Word) : limbTraceS x y = limbTraceOf .arithmetic x y := rfl

theorem limbTraceU_eq (x y : Word) : limbTraceU x y = limbTraceOf .logical x y := rfl

/-- The 64 bits of an integer with bounds inside a reading's range read as it. -/
theorem reading_of_bounds {k : ShiftKind} {v : Word} {n lo hi : Int} (hv : v = bits64 n)
    (hn : lo ≤ n ∧ n ≤ hi) (hlo : leastLimb k * 2 ^ 32 ≤ lo)
    (hhi : hi < leastLimb k * 2 ^ 32 + 2 ^ 64) :
    reading k v = n ∧ lo ≤ reading k v ∧ reading k v ≤ hi := by
  have hread : reading k v = n := by
    rw [hv]
    exact reading_bits64 k n (by omega)
  rw [hread]
  exact ⟨rfl, hn⟩

/-- The floor of a product needs no wrap, in either reading (R54). -/
theorem reading_floor (k : ShiftKind) (x y : Word) :
    reading k (bits64 (floorHigh (reading k x * reading k y))) =
      floorHigh (reading k x * reading k y) := by
  cases k with
  | logical =>
    change (uval (mulhu x y) : Int) = uval x * uval y / 2 ^ 64
    exact_mod_cast uval_mulhu x y
  | arithmetic => exact sval_mulhs x y

section
variable {k : ShiftKind} {x y : Word} {l : LimbTrace} (hl : l = limbTraceOf k x y)
include hl

theorem limb_x0_range : 0 ≤ (uval l.x0 : Int) ∧ (uval l.x0 : Int) ≤ 2 ^ 32 - 1 :=
  hl ▸ lowLimb_range x

theorem limb_y0_range : 0 ≤ (uval l.y0 : Int) ∧ (uval l.y0 : Int) ≤ 2 ^ 32 - 1 :=
  hl ▸ lowLimb_range y

theorem limb_x1_range : leastLimb k ≤ reading k l.x1 ∧
    reading k l.x1 ≤ leastLimb k + (2 ^ 32 - 1) := hl ▸ highLimb_range k x

theorem limb_y1_range : leastLimb k ≤ reading k l.y1 ∧
    reading k l.y1 ≤ leastLimb k + (2 ^ 32 - 1) := hl ▸ highLimb_range k y

theorem limb_x_split : reading k x = reading k l.x1 * 2 ^ 32 + uval l.x0 :=
  hl ▸ reading_eq_limbs k x

theorem limb_y_split : reading k y = reading k l.y1 * 2 ^ 32 + uval l.y0 :=
  hl ▸ reading_eq_limbs k y

/-- The low product is that of two low limbs, read without a sign in both algorithms. -/
theorem limb_p_no_wrap : (uval l.p : Int) = uval l.x0 * uval l.y0 ∧
    0 ≤ (uval l.p : Int) ∧ (uval l.p : Int) ≤ 2 ^ 64 - 2 ^ 33 + 1 := by
  have hp : l.p = bits64 (uval l.x0 * uval l.y0) := by
    rw [bits64_mul, bits64_uval, bits64_uval, hl]
    rfl
  have hmul := mul_limb_bounds (c := 0) (by decide) (limb_x0_range hl) (limb_y0_range hl)
  exact reading_of_bounds (k := .logical) hp (by omega) (by decide) (by decide)

/-- `t` takes a high limb times a low one and the high half of `p`. -/
theorem limb_t_no_wrap : reading k l.t = reading k l.x1 * uval l.y0 + uval l.p / 2 ^ 32 ∧
    leastLimb k * (2 ^ 32 - 1) ≤ reading k l.t ∧
    reading k l.t ≤ (leastLimb k + 2 ^ 32) * (2 ^ 32 - 1) - 1 := by
  have hp := (limb_p_no_wrap hl).2
  have hc := leastLimb_range k
  have ht : l.t = bits64 (reading k l.x1 * uval l.y0 + uval l.p / 2 ^ 32) := by
    have hshift : reading .logical (shiftRight .logical l.p 32) = uval l.p / 2 ^ 32 :=
      reading_shiftRight .logical l.p 32
    rw [bits64_add, bits64_mul, bits64_reading, bits64_uval, ← hshift, bits64_reading, hl]
    rfl
  have hmul := mul_limb_bounds (by omega) (limb_x1_range hl) (limb_y0_range hl)
  exact reading_of_bounds ht (by omega) (by omega) (by omega)

/-- `w` takes the low half of `t` and a low limb times a high one. -/
theorem limb_w_no_wrap : reading k l.w = reading k l.t % 2 ^ 32 + uval l.x0 * reading k l.y1 ∧
    leastLimb k * (2 ^ 32 - 1) ≤ reading k l.w ∧
    reading k l.w ≤ (leastLimb k + 2 ^ 32) * (2 ^ 32 - 1) := by
  have hc := leastLimb_range k
  have hw : l.w = bits64 (reading k l.t % 2 ^ 32 + uval l.x0 * reading k l.y1) := by
    rw [bits64_add, bits64_mul, bits64_reading, bits64_uval, ← uval_lowLimb_eq_reading,
      bits64_uval, hl]
    rfl
  have hmul := mul_limb_bounds (by omega) (limb_y1_range hl) (limb_x0_range hl)
  rw [mul_comm (reading k l.y1)] at hmul
  exact reading_of_bounds hw (by omega) (by omega) (by omega)

/-- The sum of the algorithm, on integers, is the floor of the product. -/
theorem limb_sum_eq : reading k l.x1 * reading k l.y1 + reading k l.t / 2 ^ 32 +
    reading k l.w / 2 ^ 32 = floorHigh (reading k x * reading k y) := by
  rw [limb_x_split hl, limb_y_split hl]
  exact limb_sum_eq_floor (limb_p_no_wrap hl).1 (limb_t_no_wrap hl).1 (limb_w_no_wrap hl).1

/-- The result is the 64 bits of that floor, whether or not the sum wraps. -/
theorem limb_result_eq : l.result = bits64 (floorHigh (reading k x * reading k y)) := by
  rw [← limb_sum_eq hl, bits64_add, bits64_add, bits64_mul, bits64_reading, bits64_reading,
    ← reading_shiftRight, ← reading_shiftRight, bits64_reading, bits64_reading, hl]
  rfl

theorem limb_result_exact : reading k l.result =
    reading k l.x1 * reading k l.y1 + reading k l.t / 2 ^ 32 + reading k l.w / 2 ^ 32 := by
  rw [limb_sum_eq hl, limb_result_eq hl]
  exact reading_floor k x y

end

theorem limbS_eq_mulhs (x y : Word) : limbS x y = mulhs x y :=
  limb_result_eq (limbTraceS_eq x y)

theorem limbU_eq_mulhu (x y : Word) : limbU x y = mulhu x y :=
  limb_result_eq (limbTraceU_eq x y)

theorem mul_eq_bits64_reading (k : ShiftKind) (v w : Word) :
    v * w = bits64 (reading k v * reading k w) := by
  rw [bits64_mul, bits64_reading, bits64_reading]

/-- The partial sum stays in the result's range: it is the floor of a high limb, in size at most
2^31, times an operand, at most 2^63, and of `p`, whose high half is below 2^32 - 1. -/
theorem limbS_partial_sum_range {x y : Word} {l : LimbTrace}
    (hl : l = limbTraceOf .arithmetic x y) :
    -2 ^ 62 ≤ sval l.x1 * sval l.y1 + sval l.t / 2 ^ 32 ∧
      sval l.x1 * sval l.y1 + sval l.t / 2 ^ 32 ≤ 2 ^ 62 := by
  obtain ⟨-, hp0, hp⟩ := limb_p_no_wrap hl
  have hpartial : sval l.x1 * sval l.y1 + sval l.t / 2 ^ 32 =
      (sval l.x1 * sval y + (uval l.p : Int) / 2 ^ 32) / 2 ^ 32 := by
    have hy : sval y = sval l.y1 * 2 ^ 32 + uval l.y0 := limb_y_split hl
    rw [hy]
    exact limb_partial_sum_eq_floor (limb_t_no_wrap hl).1
  have hx : |sval l.x1| ≤ 2 ^ 31 := by
    have h := limb_x1_range hl
    simp only [reading, leastLimb] at h
    exact abs_le.mpr (by omega)
  have hy : |sval y| ≤ 2 ^ 63 := by
    have h := sval_range y
    exact abs_le.mpr (by omega)
  have hxy : |sval l.x1 * sval y| ≤ 2 ^ 31 * 2 ^ 63 :=
    (abs_mul ..).trans_le (mul_le_mul hx hy (abs_nonneg _) (by decide))
  obtain ⟨hlo, hhi⟩ := abs_le.mp hxy
  rw [hpartial]
  omega

/-- Settles O14: each intermediate by its lemma for either kind, and the result as the floor of the
product. -/
theorem signedLimbsNeverWrap : Obligations.SignedLimbsNeverWrap := by
  intro x y l
  have hl : l = limbTraceOf .arithmetic x y := limbTraceS_eq x y
  obtain ⟨hp, -, hple⟩ := limb_p_no_wrap hl
  obtain ⟨ht, htlo, hthi⟩ := limb_t_no_wrap hl
  obtain ⟨hw, hwlo, hwhi⟩ := limb_w_no_wrap hl
  have hmul := mul_bounds_of_twosComplement (m := 2 ^ 31) (limb_x1_range hl) (limb_y1_range hl)
  have hhigh := reading_of_bounds (k := .arithmetic) (mul_eq_bits64_reading _ l.x1 l.y1) hmul
    (by decide) (by decide)
  have hresult : l.result = mulhs x y := limbS_eq_mulhs x y
  refine ⟨hp, ht, hw, hhigh.1, limb_result_exact hl, by omega, ⟨htlo, hthi⟩, ⟨hwlo, hwhi⟩, hmul,
    limbS_partial_sum_range hl, ?_⟩
  rw [hresult]
  exact sval_mulhs_range x y

/-- Settles O15: as for `LIMB_S`; the last summand is not negative, so the partial sum is bounded by
the result. -/
theorem unsignedLimbsNeverWrap : Obligations.UnsignedLimbsNeverWrap := by
  intro x y l
  have hl : l = limbTraceOf .logical x y := limbTraceU_eq x y
  obtain ⟨hp, -, hple⟩ := limb_p_no_wrap hl
  obtain ⟨ht, -, hthi⟩ := limb_t_no_wrap hl
  obtain ⟨hw, -, hwhi⟩ := limb_w_no_wrap hl
  have hmul := mul_limb_bounds (c := 0) (by decide) (limb_x1_range hl) (limb_y1_range hl)
  have hhigh := reading_of_bounds (k := .logical) (mul_eq_bits64_reading _ l.x1 l.y1) hmul
    (by decide) (by decide)
  have hsum := limb_result_exact hl
  have hresult : l.result = mulhu x y := limbU_eq_mulhu x y
  have hrange : uval l.result ≤ 2 ^ 64 - 2 := hresult ▸ uval_mulhu_le x y
  simp only [leastLimb, reading] at ht hthi hw hwhi hmul hhigh hsum
  refine ⟨by exact_mod_cast hp, by exact_mod_cast ht, by exact_mod_cast hw,
    by exact_mod_cast hhigh.1, by exact_mod_cast hsum, by omega, by omega, by omega, ?_, ?_, hrange⟩
  · zify
    omega
  · zify
    omega

end Sys2Proof.Machine
end

section
/-! The native multiplies, and the agreement of the three strategies (R65 to R67). -/

namespace Sys2Proof.Machine
open Sys2Proof

theorem sext128_eq_bits128 (v : Word) : sext128 v = bits128 (sval v) := by
  rw [sval_eq_toInt]
  rfl

theorem zext128_eq_bits128 (v : Word) : zext128 v = bits128 (uval v) := by
  rw [bits128, BitVec.ofInt_natCast]
  exact (BitVec.ofNat_toNat 128 v).symm

theorem bits128_mul (m n : Int) : bits128 (m * n) = bits128 m * bits128 n := BitVec.ofInt_mul m n

/-- The low 64 bits after a shift by 64 are the high half, whatever the shift fills in. -/
theorem setWidth_ushiftRight_eq_highHalf (v : BitVec 128) : (v >>> 64).setWidth 64 = highHalf v := by
  ext i hi
  simp [highHalf]

theorem setWidth_sshiftRight_eq_highHalf (v : BitVec 128) :
    (v.sshiftRight 64).setWidth 64 = highHalf v := by
  ext i hi
  have hin : 64 + i < 128 := by omega
  have hi' : ¬ 128 ≤ i := by omega
  simp [highHalf, BitVec.getLsbD_sshiftRight, hin, hi']

theorem nativeS_eq_mulhs (x y : Word) : nativeS x y = mulhs x y := by
  rw [nativeS, sext128_eq_bits128, sext128_eq_bits128, ← bits128_mul,
    setWidth_sshiftRight_eq_highHalf, highHalf_bits128]
  rfl

theorem nativeU_eq_mulhu (x y : Word) : nativeU x y = mulhu x y := by
  rw [nativeU, zext128_eq_bits128, zext128_eq_bits128, ← bits128_mul,
    setWidth_ushiftRight_eq_highHalf, highHalf_bits128]
  rfl

/-- Settles O17: each strategy computes the 64 bits of the product's floor. -/
theorem strategiesAgree : Obligations.StrategiesAgree := by
  intro x y
  rw [limbS_eq_mulhs, limbU_eq_mulhu, nativeS_eq_mulhs, nativeU_eq_mulhu]
  exact ⟨⟨rfl, rfl⟩, rfl, rfl⟩

/-- Settles O16: three closed traces, against the floor of their products. -/
theorem wrongShiftsShow : Obligations.WrongShiftsShow := by
  unfold Obligations.WrongShiftsShow
  decide

end Sys2Proof.Machine
end

section
/-! Every accepted cycle, wires included (R22, R52, R96, R98, R106): a value wired back changes what
a cycle takes in, but neither whether the block accepts the cycle nor whether it resets. -/

namespace Sys2Proof.Machine
open Sys2Proof

/-! ### Sampling under another `out_hi` -/

theorem exists_readWord_of_some {hi a : Word} {d : WordDrive} (h : readWord hi d = some a)
    (lo : Word) : ∃ b, readWord lo d = some b := by
  refine exists_readWord lo d fun hd => ?_
  rw [hd] at h
  cases h

theorem exists_selEff_of_some {k : Kind} {hi : Word} {d : SelDrive} {e : Bool}
    (h : selEff k (readSel hi d) = some e) (lo : Word) :
    ∃ f, selEff k (readSel lo d) = some f := by
  cases k with
  | signedOnly => exact ⟨_, rfl⟩
  | unsignedOnly => exact ⟨_, rfl⟩
  | unified =>
    refine exists_selEff .unified lo d fun hd => ?_
    rw [hd] at h
    cases h

/-- Whether the ports can be sampled, and `rst`, do not depend on what `out_hi` shows. -/
theorem exists_samplePorts_of_some {c : Config} {hi : Word} {p : PortDrive} {q : PortSample}
    (h : samplePorts c hi p = some q) (lo : Word) :
    ∃ q', samplePorts c lo p = some q' ∧ q'.rst = q.rst := by
  obtain ⟨hrst, hvalid, hsel, ha, hb⟩ := samplePorts_some c hi p q h
  have hrst' : (if c.latency = 0 then some false else readLevel p.rst) = some q.rst := by
    by_cases hl : c.latency = 0
    · rw [if_pos hl] at hrst ⊢
      rw [hrst]
    · rw [if_neg hl] at hrst ⊢
      exact hrst
  obtain ⟨e, he⟩ := exists_selEff_of_some hsel lo
  obtain ⟨a, ha⟩ := exists_readWord_of_some ha lo
  obtain ⟨b, hb⟩ := exists_readWord_of_some hb lo
  exact ⟨⟨q.rst, q.valid, e, a, b⟩, by simp only [samplePorts, hrst', hvalid, he, ha, hb], rfl⟩

/-! ### What a cycle does -/

/-- The result a cycle without reset takes in, if it issues an operation, while `out_hi` shows `hi`
(R22, R106). -/
def Stimulus.incoming (c : Config) (hi : Word) : Stimulus → Option Word
  | .ports p => (samplePorts c hi p).bind PortSample.result
  | x => x.issues c

theorem portCycle_of_accepted (p : PortDrive) (s : State)
    (ha : (Stimulus.ports p).accepted s.cfg = true) :
    portCycle p s = .next (if (Stimulus.ports p).resets s.cfg then s.resetCycle
      else s.cycle ((Stimulus.ports p).incoming s.cfg s.presentHi)) := by
  simp only [Stimulus.accepted, Bool.and_eq_true, Option.isSome_iff_exists,
    Bool.not_eq_true'] at ha
  obtain ⟨⟨q₀, hq₀⟩, hloop⟩ := ha
  obtain ⟨q, hq, hrst⟩ := exists_samplePorts_of_some hq₀ s.presentHi
  have hresets : (Stimulus.ports p).resets s.cfg = q.rst := by
    simp only [Stimulus.resets, hq₀, hrst]
  have hincoming : (Stimulus.ports p).incoming s.cfg s.presentHi = q.result := by
    simp only [Stimulus.incoming, hq, Option.bind_some]
  rw [portCycle_of_sample p s q hq, hloop, hresets, hincoming]
  cases q.rst <;> rfl

/-- The refusal of driven ports is named by the drive and the parameters alone. -/
theorem portCycle_of_not_accepted (c : Config) (p : PortDrive)
    (ha : (Stimulus.ports p).accepted c = false) :
    ∃ r, ∀ s : State, s.cfg = c → portCycle p s = .refused r := by
  cases hq₀ : samplePorts c 0#64 p with
  | none =>
    refine ⟨.unknownInput, fun s hs => portCycle_of_unknown p s ?_⟩
    cases hq : samplePorts s.cfg s.presentHi p with
    | none => rfl
    | some q =>
      rw [hs] at hq
      obtain ⟨q', hq', -⟩ := exists_samplePorts_of_some hq 0#64
      cases hq₀.symm.trans hq'
  | some q₀ =>
    have hloop : (c.latency == 0 && feedsBack c p) = true := by
      simpa [Stimulus.accepted, hq₀] using ha
    refine ⟨.combinationalLoop, fun s hs => ?_⟩
    obtain ⟨q, hq, -⟩ := exists_samplePorts_of_some hq₀ s.presentHi
    rw [← hs] at hq hloop
    rw [portCycle_of_sample p s q hq, hloop]
    rfl

/-- An accepted cycle is a reset edge or takes in its incoming result. -/
theorem stimulusCycle_of_accepted (x : Stimulus) (s : State) (ha : x.accepted s.cfg = true) :
    stimulusCycle x s = .next (if x.resets s.cfg then s.resetCycle
      else s.cycle (x.incoming s.cfg s.presentHi)) := by
  cases x with
  | ports p => exact portCycle_of_accepted p s ha
  | idle => exact (stimulusCycle_next_iff .idle s _ rfl).mpr ⟨ha, rfl⟩
  | reset => exact (stimulusCycle_next_iff .reset s _ rfl).mpr ⟨ha, rfl⟩
  | word n => exact (stimulusCycle_next_iff (.word n) s _ rfl).mpr ⟨ha, rfl⟩

/-- A cycle that is not accepted is refused, for a reason that is the same in every state. -/
theorem stimulusCycle_of_not_accepted (c : Config) (x : Stimulus) (ha : x.accepted c = false) :
    ∃ r, ∀ s : State, s.cfg = c → stimulusCycle x s = .refused r := by
  cases x with
  | ports p => exact portCycle_of_not_accepted c p ha
  | idle => cases ha
  | reset =>
    have hl : c.latency = 0 := by simpa [Stimulus.accepted] using ha
    exact ⟨.noResetPort, fun s hs => by rw [stimulusCycle, hs, if_pos hl]⟩
  | word n =>
    cases hn : decodeWord n with
    | error e => exact ⟨.notACommandWord, fun s _ => by simp only [stimulusCycle, hn]⟩
    | ok i =>
      have hi : i.wf c.kind = false := by simpa [Stimulus.accepted, hn] using ha
      refine ⟨.operationAbsent, fun s hs => ?_⟩
      rw [← hs] at hi
      simp only [stimulusCycle, hn, exec_of_not_wf i s hi]

/-! ### Steps -/

theorem State.presented_eq_head {s : State} {x : Stimulus} {xs : List Stimulus}
    (hs : s.stream = x :: xs) : s.presented = x := by
  rw [State.presented, hs, List.headD_cons]

/-- The state the block's edge works on: the cycle presented is taken from the stream. -/
def State.taken (s : State) : State := s.withStream s.stream.tail

@[simp] theorem State.taken_cfg (s : State) : s.taken.cfg = s.cfg := rfl
@[simp] theorem State.taken_stream (s : State) : s.taken.stream = s.stream.tail := rfl

theorem step_of_resets (s : State) (ha : s.presented.accepted s.cfg = true)
    (hr : s.presented.resets s.cfg = true) : step s = .next s.taken.resetCycle := by
  rw [step_eq_stimulusCycle]
  exact (stimulusCycle_of_accepted _ s.taken ha).trans (congrArg _ (if_pos hr))

theorem step_of_not_resets (s : State) (ha : s.presented.accepted s.cfg = true)
    (hr : s.presented.resets s.cfg = false) :
    step s = .next (s.taken.cycle (s.presented.incoming s.cfg s.presentHi)) := by
  rw [step_eq_stimulusCycle]
  exact (stimulusCycle_of_accepted _ s.taken ha).trans
    (congrArg _ (if_neg (Bool.eq_false_iff.mp hr)))

/-- A step on an accepted cycle goes on, wires or not. -/
theorem exists_step_of_accepted (s : State) (ha : s.presented.accepted s.cfg = true) :
    ∃ t, step s = .next t :=
  ⟨_, (step_eq_stimulusCycle s).trans (stimulusCycle_of_accepted _ s.taken ha)⟩

theorem step_stream (s t : State) (h : step s = .next t) : t.stream = s.stream.tail := by
  obtain ⟨-, rfl⟩ | rfl | ⟨i, -, rfl⟩ := step_next s t h <;> rfl

theorem run_succ_of_step (n : Nat) {s s' : State} (h : step s = .next s') :
    Host.Core.run Sys2Proof.core (n + 1) s = Host.Core.run Sys2Proof.core n s' := by
  have h' : Sys2Proof.core.step s = .next s' := h
  simp only [Host.Core.run, h']

end Sys2Proof.Machine
end

section
/-! The reset edge (R26, R96, R98, R99, R100): it wins over the operation presented, empties every
stage, and leaves nothing that could be shown later. -/

namespace Sys2Proof.Machine
open Sys2Proof

/-- A two-valued drive with `rst` high is accepted and resets, if the block has the port (R98). -/
theorem accepted_resets_of_rst_high (c : Config) (p : PortDrive) (hl : c.latency ≠ 0)
    (htwo : p.twoValued = true) (hrst : p.rst = .high) :
    (Stimulus.ports p).accepted c = true ∧ (Stimulus.ports p).resets c = true := by
  obtain ⟨q, hq⟩ := exists_samplePorts_of_twoValued c 0#64 p htwo
  obtain ⟨hqr, -, -, -, -⟩ := samplePorts_some _ _ _ _ hq
  rw [if_neg hl, hrst] at hqr
  have hqrst : q.rst = true := (Option.some.inj hqr).symm
  simp [Stimulus.accepted, Stimulus.resets, hq, hl, hqrst]

/-- Settles O40: either form of a reset is an accepted cycle that resets, so the step is the reset
edge. -/
theorem resetWinsAndEmpties : Obligations.ResetWinsAndEmpties := by
  intro s x xs hwf hl hs hx
  have hl' : s.cfg.latency ≠ 0 := by omega
  obtain ⟨ha, hr⟩ : x.accepted s.cfg = true ∧ x.resets s.cfg = true := by
    obtain rfl | ⟨p, rfl, htwo, hrst⟩ := hx
    · simp [Stimulus.accepted, Stimulus.resets, hl']
    · exact accepted_resets_of_rst_high s.cfg p hl' htwo hrst
  rw [← State.presented_eq_head hs] at ha hr
  refine ⟨_, step_of_resets s ha hr, rfl, ?_, State.resetCycle_wf _, State.resetCycle_stage _, ?_⟩
  · rw [State.resetCycle_stream, State.taken_stream, hs, List.tail_cons]
  · exact State.oldest_eq_stage s hwf

/-- What a stage holds after a cycle is its younger neighbour's old contents, or nothing after a
reset (R22, R96). -/
theorem step_stage_succ (s t : State) (h : step s = .next t) (hs : s.wf) (k : Nat) (h1 : 1 ≤ k)
    (hk : k < s.cfg.latency) : t.stage (k + 1) = none ∨ t.stage (k + 1) = s.stage k := by
  obtain ⟨-, rfl⟩ | rfl | ⟨i, -, rfl⟩ := step_next s t h
  · exact .inl (State.resetCycle_stage _ _)
  · exact .inr (State.cycle_stage_succ (s.withStream s.stream.tail) _ hs k h1 hk)
  · exact .inr (State.cycle_stage_succ (s.withStream s.stream.tail) _ hs k h1 hk)

/-- An entry of what a run shows is there because the run's first step goes on. -/
theorem exists_step_of_shownIn {s : State} {m n : Nat} {o : Option Word}
    (ho : (shownIn n s)[m]? = some o) :
    ∃ t k, step s = .next t ∧ (t.out :: shownIn k t)[m]? = some o := by
  cases n with
  | zero => cases ho
  | succ n =>
    rw [shownIn] at ho
    split at ho
    · next t ht => exact ⟨t, n, ht, ho⟩
    · cases ho
    · cases ho

/-- An `Empty` stage shows `out_valid = 0` when it is due, whatever the requester does. -/
theorem shownIn_getElem?_of_stage_none {s : State} {m n : Nat} {o : Option Word} (hs : s.wf)
    (hm : m < s.cfg.latency) (he : s.stage (s.cfg.latency - m) = none)
    (ho : (shownIn n s)[m]? = some o) : o = none := by
  induction m generalizing s n with
  | zero =>
    obtain ⟨t, k, ht, ho⟩ := exists_step_of_shownIn ho
    have hout : t.out = none := by
      rw [step_out s t (by omega) ht, State.oldest_eq_stage s hs]
      exact he
    exact (Option.some.inj ho).symm.trans hout
  | succ m ih =>
    obtain ⟨t, k, ht, ho⟩ := exists_step_of_shownIn ho
    have hcfg := step_cfg s t ht
    obtain ⟨j, hj⟩ : ∃ j, s.cfg.latency - (m + 1) = j + 1 :=
      ⟨s.cfg.latency - (m + 1) - 1, by omega⟩
    have het : t.stage (t.cfg.latency - m) = none := by
      rw [hcfg, show s.cfg.latency - m = j + 1 + 1 by omega]
      rw [hj] at he
      exact (step_stage_succ s t ht hs (j + 1) (by omega) (by omega)).elim id (·.trans he)
    exact ih (step_wf s t ht hs) (by rw [hcfg]; omega) het ho

/-- Settles O42: the reset edge leaves every stage `Empty`, and stage `L + 1 - k` is due in the
`k`-th cycle after it. -/
theorem resetSilencesOutputs : Obligations.ResetSilencesOutputs := by
  intro s x xs k o hs ha hr h1 hk ho
  rw [← State.presented_eq_head hs] at ha hr
  obtain ⟨m, rfl⟩ : ∃ m, k = m + 1 := ⟨k - 1, by omega⟩
  simp only [shownIn, step_of_resets s ha hr, List.getElem?_cons_succ] at ho
  exact shownIn_getElem?_of_stage_none (State.resetCycle_wf s.taken) hk
    (State.resetCycle_stage _ _) ho

/-- An operation the block has, in serial form, is its cycle (R44, R47). -/
theorem step_encodeWord (s : State) (i : Instr) (xs : List Stimulus) (hi : i.wf s.cfg.kind = true)
    (hs : s.stream = .word (encodeWord i) :: xs) :
    step s = .next ((s.withStream xs).cycle (some (resultOf i))) := by
  rw [stepRunsPresentedWord s _ xs i hs (decodeWord_encodeWord i), exec_eq]
  exact if_pos hi

/-- Settles O41: the reset edge empties whatever the stages held at power-on, and the operation
presented next enters `E[1]`. -/
theorem oneResetEdgeBoots : Obligations.OneResetEdgeBoots := by
  intro c d i hl hi
  have hl' : c.latency ≠ 0 := by omega
  set s := (State.powerOn c d).withStream [.reset, .word (encodeWord i)]
  have ha : s.presented.accepted s.cfg = true := bne_iff_ne.mpr hl'
  have hr : s.presented.resets s.cfg = true := bne_iff_ne.mpr hl'
  exact ⟨_, _, step_of_resets s ha hr, rfl, step_encodeWord _ i [] hi rfl,
    State.cycle_stage_one _ _ hl'⟩

end Sys2Proof.Machine
end

section
/-! An operation discarded in flight (R97): two blocks that differ only in their youngest stages run
alike until the difference reaches `E[L]`, and a reset before that leaves no trace of it. -/

namespace Sys2Proof.Machine
open Sys2Proof

/-- Two blocks with the same cycles to come differ at most in their `k` youngest stages, and in what
their outputs showed last. -/
structure State.AgreeBeyond (k : Nat) (s u : State) : Prop where
  left_wf : s.wf
  right_wf : u.wf
  cfg : s.cfg = u.cfg
  stream : s.stream = u.stream
  draw : s.draw = u.draw
  stage : ∀ j, k < j → j ≤ s.cfg.latency → s.stage j = u.stage j

theorem State.AgreeBeyond.refl {s : State} (k : Nat) (h : s.wf) : State.AgreeBeyond k s s :=
  ⟨h, h, rfl, rfl, rfl, fun _ _ _ => rfl⟩

namespace State.AgreeBeyond
variable {k : Nat} {s u : State}

theorem oldest (h : State.AgreeBeyond k s u) (hk : k < s.cfg.latency) : s.oldest = u.oldest := by
  rw [State.oldest_eq_stage s h.left_wf, State.oldest_eq_stage u h.right_wf, ← h.cfg]
  exact h.stage _ hk le_rfl

theorem presentHi (h : State.AgreeBeyond k s u) (hk : k < s.cfg.latency) :
    s.presentHi = u.presentHi := by
  rw [State.presentHi, State.presentHi, h.oldest hk, h.draw]

theorem presented (h : State.AgreeBeyond k s u) : s.presented = u.presented := by
  rw [State.presented, State.presented, h.stream]

theorem taken (h : State.AgreeBeyond k s u) : State.AgreeBeyond k s.taken u.taken where
  left_wf := h.left_wf
  right_wf := h.right_wf
  cfg := h.cfg
  stream := congrArg List.tail h.stream
  draw := h.draw
  stage := h.stage

/-- A cycle moves the difference one stage on, whatever each block takes in. -/
theorem cycle (h : State.AgreeBeyond k s u) (o o' : Option Word) :
    State.AgreeBeyond (k + 1) (s.cycle o) (u.cycle o') where
  left_wf := State.cycle_wf s o h.left_wf
  right_wf := State.cycle_wf u o' h.right_wf
  cfg := h.cfg
  stream := h.stream
  draw := congrArg (· + 1) h.draw
  stage j h1 hj := by
    have hj' : j ≤ s.cfg.latency := hj
    obtain ⟨i, rfl⟩ : ∃ i, j = i + 1 := ⟨j - 1, by omega⟩
    rw [State.cycle_stage_succ s o h.left_wf i (by omega) (by omega),
      State.cycle_stage_succ u o' h.right_wf i (by omega) (by rw [← h.cfg]; omega)]
    exact h.stage i (by omega) (by omega)

/-- A reset edge leaves the same block (R96). -/
theorem resetCycle_eq (h : State.AgreeBeyond k s u) (hk : k < s.cfg.latency) :
    s.resetCycle = u.resetCycle := by
  simp only [State.resetCycle, h.cfg, h.stream, h.draw, h.oldest hk]

theorem step_eq_of_resets (h : State.AgreeBeyond k s u) (hk : k < s.cfg.latency)
    (ha : s.presented.accepted s.cfg = true) (hr : s.presented.resets s.cfg = true) :
    step s = step u := by
  rw [step_of_resets s ha hr, h.taken.resetCycle_eq hk]
  rw [h.presented, h.cfg] at ha hr
  exact (step_of_resets u ha hr).symm

/-- One cycle does the same to both (it is refused or resets), or moves the difference one stage on
while both show the same. -/
theorem step_cases (h : State.AgreeBeyond k s u) (hk : k < s.cfg.latency) :
    step s = step u ∨ ∃ s' u', step s = .next s' ∧ step u = .next u' ∧ s'.out = u'.out ∧
      State.AgreeBeyond (k + 1) s' u' := by
  cases ha : s.presented.accepted s.cfg with
  | false =>
    obtain ⟨r, hr⟩ := stimulusCycle_of_not_accepted s.cfg s.presented ha
    rw [step_eq_stimulusCycle s, step_eq_stimulusCycle u, ← h.presented]
    exact .inl ((hr s.taken rfl).trans (hr u.taken h.cfg.symm).symm)
  | true =>
    cases hr : s.presented.resets s.cfg with
    | true => exact .inl (h.step_eq_of_resets hk ha hr)
    | false =>
      have hs := step_of_not_resets s ha hr
      rw [h.presented, h.cfg] at ha hr
      have hu := step_of_not_resets u ha hr
      refine .inr ⟨_, _, hs, hu, ?_, h.taken.cycle _ _⟩
      rw [step_out s _ (by omega) hs, step_out u _ (by rw [← h.cfg]; omega) hu, h.oldest hk]

end State.AgreeBeyond

/-- The next `k` cycles are the same from both states: what they show, and what they leave. -/
def State.RunsAlike (k : Nat) (s u : State) : Prop :=
  shownIn k s = shownIn k u ∧
    Host.Core.run Sys2Proof.core k s = Host.Core.run Sys2Proof.core k u

theorem State.runsAlike_of_step_eq {s u : State} (k : Nat) (h : step s = step u) :
    State.RunsAlike (k + 1) s u := by
  have h' : Sys2Proof.core.step s = Sys2Proof.core.step u := h
  exact ⟨by rw [shownIn, shownIn, h], by simp only [Host.Core.run, h']⟩

theorem State.RunsAlike.succ {k : Nat} {s u s' u' : State} (h : State.RunsAlike k s' u')
    (hs : step s = .next s') (hu : step u = .next u') (ho : s'.out = u'.out) :
    State.RunsAlike (k + 1) s u := by
  obtain ⟨hshown, hrun⟩ := h
  refine ⟨?_, by rw [run_succ_of_step k hs, run_succ_of_step k hu, hrun]⟩
  simp only [shownIn, hs, hu, ho, hshown]

/-- A reset `n` cycles on, before the difference reaches `E[L]`, makes both runs the same (R97). -/
theorem State.AgreeBeyond.runsAlike {k n : Nat} {s u : State} {y : Stimulus}
    (h : State.AgreeBeyond k s u) (hk : k + n < s.cfg.latency) (hy : s.stream[n]? = some y)
    (ha : y.accepted s.cfg = true) (hr : y.resets s.cfg = true) :
    State.RunsAlike (n + 1) s u := by
  induction n generalizing k s u with
  | zero =>
    have hp : s.presented = y := by
      rw [State.presented, List.headD_eq_head?_getD, List.head?_eq_getElem?, hy, Option.getD_some]
    rw [← hp] at ha hr
    exact State.runsAlike_of_step_eq 0 (h.step_eq_of_resets hk ha hr)
  | succ n ih =>
    obtain heq | ⟨s', u', hs, hu, ho, h'⟩ := h.step_cases (by omega)
    · exact State.runsAlike_of_step_eq (n + 1) heq
    · have hcfg := step_cfg s s' hs
      refine (ih h' (by rw [hcfg]; omega) ?_ (hcfg ▸ ha) (hcfg ▸ hr)).succ hs hu ho
      rw [step_stream s s' hs, List.getElem?_tail, hy]

/-- Settles O43: the cycle that issues the operation and the bubble in its place leave blocks that
differ in `E[1]` only. -/
theorem resetDiscardsInFlight : Obligations.ResetDiscardsInFlight := by
  intro s x y xs r hwf hs ha hr h1 hrl hy hya hyr
  rw [← State.presented_eq_head hs] at ha hr
  obtain ⟨n, rfl⟩ : ∃ n, r = n + 1 := ⟨r - 1, by omega⟩
  have hstep := step_of_not_resets s ha hr
  have hidle : step (s.withStream (.idle :: xs)) = .next ((s.withStream xs).cycle none) :=
    step_cons (s.withStream (.idle :: xs)) .idle xs rfl
  rw [State.taken, hs, List.tail_cons] at hstep
  have hagree := (State.AgreeBeyond.refl 0 (s := s.withStream xs) hwf).cycle
    (s.presented.incoming s.cfg s.presentHi) none
  have hl : s.cfg.latency ≠ 0 := by omega
  have halike : State.RunsAlike (n + 1) _ _ :=
    hagree.runsAlike (show 0 + 1 + n < s.cfg.latency by omega) hy hya hyr
  exact halike.succ hstep hidle ((State.shown_pos _ _ hl).trans (State.shown_pos _ _ hl).symm)

end Sys2Proof.Machine
end

section
/-! Runs of accepted cycles, wires included (R102, R103, R105, R109): a result reaches the outputs
`L` cycles after its issue, and `L` bubbles empty the pipeline. -/

namespace Sys2Proof.Machine
open Sys2Proof

/-- What holds of `IDLE` and of the next cycles of the stream holds of the one presented. -/
theorem State.presented_of_forall_take (s : State) (P : Stimulus → Prop) (n : Nat) (hidle : P .idle)
    (h : ∀ x ∈ s.stream.take (n + 1), P x) : P s.presented := by
  unfold State.presented
  cases hs : s.stream with
  | nil => exact hidle
  | cons x xs => exact h x (by simp [hs])

/-- What stage `L - m` holds is on the outputs in the cycle `m` cycles later, if none up to it is
refused or a reset. -/
theorem exists_run_out_eq_stage {s : State} (m : Nat) (hs : s.wf) (hm : m < s.cfg.latency)
    (hx : ∀ x ∈ s.stream.take (m + 1), x.accepted s.cfg = true ∧ x.resets s.cfg = false) :
    ∃ t, Host.Core.run Sys2Proof.core (m + 1) s = .next t ∧
      t.out = s.stage (s.cfg.latency - m) := by
  induction m generalizing s with
  | zero =>
    obtain ⟨ha, hr⟩ := s.presented_of_forall_take _ 0 ⟨rfl, rfl⟩ hx
    have hstep := step_of_not_resets s ha hr
    refine ⟨_, run_succ_of_step 0 hstep, ?_⟩
    rw [step_out s _ (by omega) hstep]
    exact State.oldest_eq_stage s hs
  | succ m ih =>
    obtain ⟨ha, hr⟩ := s.presented_of_forall_take _ (m + 1) ⟨rfl, rfl⟩ hx
    have hstep := step_of_not_resets s ha hr
    obtain ⟨t, ht, hout⟩ := ih (step_wf s _ hstep hs) (show m < s.cfg.latency by omega)
      (fun x hmem => hx x (List.mem_of_mem_tail (by rw [List.tail_take_eq_take_tail]; exact hmem)))
    refine ⟨t, (run_succ_of_step _ hstep).trans ht, hout.trans ?_⟩
    obtain ⟨j, hj⟩ : ∃ j, s.cfg.latency - (m + 1) = j + 1 :=
      ⟨s.cfg.latency - (m + 1) - 1, by omega⟩
    have hj' : j + 1 < s.cfg.latency := by omega
    rw [State.cycle_cfg, State.taken_cfg, show s.cfg.latency - m = j + 1 + 1 by omega, hj]
    exact State.cycle_stage_succ s.taken _ hs (j + 1) (by omega) hj'

/-- Settles O50: the result is shown at once when `L = 0`; else it enters `E[1]`, which is due in
the last of the `L` cycles after. -/
theorem resultAfterLatency : Obligations.ResultAfterLatency := by
  intro s i xs hwf hi hs hx
  have hstep := step_encodeWord s i xs hi hs
  obtain ⟨t, ht, hout⟩ : ∃ t : State, Host.Core.run Sys2Proof.core (s.cfg.latency + 1) s = .next t ∧
      t.out = some (resultOf i) := by
    rw [run_succ_of_step _ hstep]
    cases hl : s.cfg.latency with
    | zero => exact ⟨_, rfl, State.shown_zero _ _ hl⟩
    | succ m =>
      have hl' : s.cfg.latency ≠ 0 := by omega
      rw [hl] at hx
      obtain ⟨t, ht, hout⟩ := exists_run_out_eq_stage m (step_wf s _ hstep hwf)
        (show m < s.cfg.latency by omega) hx
      refine ⟨t, ht, hout.trans ?_⟩
      rw [State.cycle_cfg, State.withStream_cfg, hl, Nat.add_sub_cancel_left]
      exact State.cycle_stage_one _ _ hl'
  exact ⟨t, ht, by rw [State.outValid, hout, Option.isSome_some],
    by rw [State.outHi, hout, Option.getD_some]⟩

/-- Bubbles shift `Empty` stages in from the youngest end (R22, R109). -/
theorem exists_run_of_stream_nil {s : State} (n : Nat) (hs : s.wf) (hnil : s.stream = [])
    (hn : n ≤ s.cfg.latency) :
    ∃ t, Host.Core.run Sys2Proof.core n s = .next t ∧ t.stream = [] ∧ t.cfg = s.cfg ∧
      t.stages = List.replicate n none ++ s.stages.take (s.cfg.latency - n) := by
  induction n generalizing s with
  | zero =>
    refine ⟨s, rfl, hnil, rfl, ?_⟩
    rw [List.replicate_zero, List.nil_append, Nat.sub_zero, List.take_of_length_le (le_of_eq hs)]
  | succ n ih =>
    have hstep := step_nil s hnil
    obtain ⟨t, ht, hstream, hcfg, hstages⟩ := ih (step_wf s _ hstep hs) hnil
      (show n ≤ s.cfg.latency by omega)
    refine ⟨t, (run_succ_of_step n hstep).trans ht, hstream, hcfg, hstages.trans ?_⟩
    have hlen : s.stages.length = s.cfg.latency := hs
    have hl : s.cfg.latency ≠ 0 := by omega
    obtain ⟨j, hj⟩ : ∃ j, s.cfg.latency - n = j + 1 := ⟨s.cfg.latency - n - 1, by omega⟩
    rw [State.cycle_cfg, State.cycle_stages, State.shifted, if_neg hl, hj,
      show s.cfg.latency - (n + 1) = j by omega, List.take_succ_cons, List.dropLast_eq_take,
      List.take_take, min_eq_left (by omega), List.replicate_succ', List.append_assoc,
      List.singleton_append]

/-- Accepted cycles use up the stream, and `L` bubbles after them empty the pipeline. -/
theorem exists_run_of_accepted (xs : List Stimulus) {s : State} (hs : s.wf) (hxs : s.stream = xs)
    (ha : ∀ x ∈ s.stream, x.accepted s.cfg = true) :
    ∃ t, Host.Core.run Sys2Proof.core (xs.length + s.cfg.latency) s = .next t ∧
      t.stream = [] ∧ t.cfg = s.cfg ∧ t.stages = List.replicate s.cfg.latency none := by
  induction xs generalizing s with
  | nil =>
    obtain ⟨t, ht, hstream, hcfg, hstages⟩ := exists_run_of_stream_nil s.cfg.latency hs hxs le_rfl
    rw [Nat.sub_self, List.take_zero, List.append_nil] at hstages
    exact ⟨t, by rw [List.length_nil, Nat.zero_add, ht], hstream, hcfg, hstages⟩
  | cons x xs ih =>
    obtain ⟨s', hstep⟩ :=
      exists_step_of_accepted s (s.presented_of_forall (·.accepted s.cfg = true) rfl ha)
    have hcfg := step_cfg s s' hstep
    have hstream := step_stream s s' hstep
    have ha' : ∀ x ∈ s'.stream, x.accepted s'.cfg = true := by
      rw [hcfg, hstream]
      exact fun x hx => ha x (List.mem_of_mem_tail hx)
    rw [List.length_cons, Nat.add_right_comm, run_succ_of_step _ hstep, ← hcfg]
    exact ih (step_wf s s' hstep hs) (by rw [hstream, hxs, List.tail_cons]) ha'

/-- Settles O49: `exists_run_of_accepted`, on the block's own stream. -/
theorem runCompletes : Obligations.RunCompletes :=
  fun _ hs ha => exists_run_of_accepted _ hs rfl ha

end Sys2Proof.Machine
end

section
/-! One cycle in full (R20, R22, R27, R46, R56, R57): the whole next state of an operation, the
bubble, and the stages after a reset. -/

namespace Sys2Proof.Machine
open Sys2Proof

/-- The whole state after a cycle, by latency (R20, R21, R22). -/
theorem State.cycle_eq_ite (s : State) (o : Option Word) :
    s.cycle o = if s.cfg.latency = 0 then { s with out := o, stages := [], draw := s.draw + 1 }
      else { s with out := s.oldest, stages := o :: s.stages.dropLast, draw := s.draw + 1 } := by
  unfold State.cycle State.shown State.shifted
  split <;> rfl

theorem exec_of_wf (i : Instr) (s : State) (h : i.wf s.cfg.kind = true) :
    exec i s = .next (s.cycle (some (resultOf i))) := by
  rw [exec_eq, if_pos h]

theorem mulhu_eq_ofNat (a b : Word) :
    mulhu a b = BitVec.ofNat 64 (uval a * uval b / 2 ^ 64) := by
  rw [← uval_mulhu, uval, BitVec.ofNat_toNat, BitVec.setWidth_eq]

/-- Settles O27: a block that has `MULHS` runs the cycle with its result incoming. -/
theorem mulhsCompletes : Obligations.MulhsCompletes := by
  intro a b s hk
  rw [exec_of_wf (.mulhs a b) s (bne_iff_ne.mpr hk), State.cycle_eq_ite]
  rfl

/-- Settles O28: a block that has `MULHU` runs the cycle with its result incoming. -/
theorem mulhuCompletes : Obligations.MulhuCompletes := by
  intro a b s hk
  rw [exec_of_wf (.mulhu a b) s (bne_iff_ne.mpr hk), State.cycle_eq_ite, resultOf, mulhu_eq_ofNat]

/-- A cycle whose statement is `IDLE`, or after the stream's end, is a bubble (R46, R109). -/
theorem step_of_presented_idle (s : State) (h : s.presented = .idle) :
    step s = .next (s.taken.cycle none) := by
  rw [step_eq_stimulusCycle, h]
  rfl

/-- Settles O32: either way the cycle presented is `IDLE`, which runs one cycle with nothing
incoming. -/
theorem idleShiftsEmpty : Obligations.IdleShiftsEmpty := by
  intro s hs hidle
  have hp : s.presented = .idle := by
    rw [State.presented, List.headD_eq_head?_getD]
    obtain hnil | hhead := hidle
    · rw [hnil]
      rfl
    · rw [hhead]
      rfl
  have hstep := step_of_presented_idle s hp
  refine ⟨_, hstep, rfl, rfl, step_wf s _ hstep hs, fun hl => ?_, fun hl => ⟨?_, ?_, ?_⟩⟩
  · rw [State.outValid, State.cycle_out, State.shown_zero s.taken none hl, Option.isSome_none]
  · rw [step_out s _ (by omega) hstep, State.oldest_eq_stage s hs]
  · exact State.cycle_stage_one s.taken none (show s.cfg.latency ≠ 0 by omega)
  · intro k h2 hk
    obtain ⟨j, rfl⟩ : ∃ j, k = j + 1 := ⟨k - 1, by omega⟩
    exact State.cycle_stage_succ s.taken none hs j (by omega) hk

/-- A block just reset holds the stages a reset edge leaves (R27, R96). -/
theorem State.afterReset_stage (c : Config) (k : Nat) : (State.afterReset c).stage k = none :=
  State.resetCycle_stage (State.afterReset c) k

/-- Settles O39: `State.afterReset_stage`, and the fields of the reset state. -/
theorem resetLeavesEmpty : Obligations.ResetLeavesEmpty :=
  ⟨fun c k => ⟨State.afterReset_stage c k, rfl⟩, rfl, rfl, rfl⟩

end Sys2Proof.Machine
end

section
/-! Refusals (R52, R95, R106): what the block needs to sample its ports, and which cycles go on. -/

namespace Sys2Proof.Machine
open Sys2Proof

/-! ### Ports with an unknown bit -/

theorem readLevel_eq_none_iff (l : Level) : readLevel l = none ↔ l = .unknown := by
  cases l <;> simp [readLevel]

theorem readWord_eq_none_iff (hi : Word) (d : WordDrive) :
    readWord hi d = none ↔ d = .unknown := by
  cases d <;> simp [readWord]

/-- A tied select is always known; the port's is unless its bit is not (R24). -/
theorem selEff_readSel_eq_none_iff (k : Kind) (hi : Word) (d : SelDrive) :
    selEff k (readSel hi d) = none ↔ k = .unified ∧ d = .unknown := by
  cases k with
  | unified => cases d <;> simp [selEff, readSel]
  | signedOnly => simp [selEff]
  | unsignedOnly => simp [selEff]

/-- The ports cannot be sampled exactly when one that the block has carries an unknown bit (R52). -/
theorem samplePorts_eq_none_iff (c : Config) (hi : Word) (p : PortDrive) :
    samplePorts c hi p = none ↔
      p.inValid = .unknown ∨ p.inA = .unknown ∨ p.inB = .unknown ∨
        (c.kind = .unified ∧ p.inSel = .unknown) ∨ (1 ≤ c.latency ∧ p.rst = .unknown) := by
  have hrst : (if c.latency = 0 then some false else readLevel p.rst) = none ↔
      1 ≤ c.latency ∧ p.rst = .unknown := by
    split_ifs with hl
    · simp [hl]
    · rw [readLevel_eq_none_iff, iff_and_self]
      omega
  rw [← hrst, ← readLevel_eq_none_iff, ← readWord_eq_none_iff hi, ← readWord_eq_none_iff hi,
    ← selEff_readSel_eq_none_iff _ hi]
  unfold samplePorts
  split
  · next hr hv he ha hb => simp [hr, hv, he, ha, hb]
  · next hsome =>
    refine iff_of_true rfl ?_
    by_contra hne
    simp only [not_or, ← ne_eq, Option.ne_none_iff_exists'] at hne
    obtain ⟨⟨v, hv⟩, ⟨a, ha⟩, ⟨b, hb⟩, ⟨e, he⟩, ⟨r, hr⟩⟩ := hne
    exact hsome r v e a b hr hv he ha hb

/-- A step on sampled ports: the loop check, then the reset edge or the operation (R98, R106). -/
theorem step_of_sample (s : State) (p : PortDrive) (q : PortSample) (xs : List Stimulus)
    (hs : s.stream = .ports p :: xs) (hq : samplePorts s.cfg s.presentHi p = some q) :
    step s = if s.cfg.latency == 0 && feedsBack s.cfg p then .refused .combinationalLoop
      else if q.rst then .next (s.withStream xs).resetCycle
      else .next ((s.withStream xs).cycle q.result) := by
  rw [step_cons s _ xs hs]
  exact portCycle_of_sample p (s.withStream xs) q hq

/-- Settles O45: the refusal is that of ports that cannot be sampled. -/
theorem unknownInputRefused : Obligations.UnknownInputRefused := by
  intro s p xs hs
  rw [← samplePorts_eq_none_iff s.cfg s.presentHi p]
  cases hq : samplePorts s.cfg s.presentHi p with
  | none => simp [step_ports_unknown s p xs hs hq]
  | some q =>
    rw [step_of_sample s p q xs hs hq]
    split_ifs <;> simp

/-! ### Loops and accepted cycles -/

/-- A wire leads back exactly when it meets a port the block has (R24, R106). -/
theorem feedsBack_eq_true_iff (c : Config) (p : PortDrive) :
    feedsBack c p = true ↔ p.inA = .outHi ∨ p.inB = .outHi ∨
      (c.kind = .unified ∧ ∃ k, p.inSel = .outHiBit k) := by
  rw [← Bool.not_eq_false, feedsBack_eq_false_iff]
  push Not
  tauto

/-- Settles O46: two-valued ports are sampled, so the loop check alone can name a loop. -/
theorem combinationalLoopRefused : Obligations.CombinationalLoopRefused := by
  intro s p xs hs htwo
  obtain ⟨q, hq⟩ := exists_samplePorts_of_twoValued s.cfg s.presentHi p htwo
  have hloop : (s.cfg.latency == 0 && feedsBack s.cfg p) = true ↔ s.cfg.latency = 0 ∧
      (p.inA = .outHi ∨ p.inB = .outHi ∨
        (s.cfg.kind = .unified ∧ ∃ k, p.inSel = .outHiBit k)) := by
    rw [Bool.and_eq_true, beq_iff_eq, feedsBack_eq_true_iff]
  rw [← hloop, step_of_sample s p q xs hs hq]
  cases s.cfg.latency == 0 && feedsBack s.cfg p with
  | true => simp
  | false => cases q.rst <;> simp

/-- Settles O47: an accepted cycle goes on, and one that is not is refused. -/
theorem acceptedCyclesGoOn : Obligations.AcceptedCyclesGoOn := by
  refine fun s => ⟨fun hnil => ⟨_, step_nil s hnil⟩, fun x xs hs => ⟨?_, fun ha => ?_⟩⟩
  · rintro ⟨t, ht⟩
    by_contra ha
    obtain ⟨r, hr⟩ := stimulusCycle_of_not_accepted s.cfg x (Bool.eq_false_iff.mpr ha)
    rw [step_cons s x xs hs, hr (s.withStream xs) rfl] at ht
    cases ht
  · rw [← State.presented_eq_head hs] at ha
    exact exists_step_of_accepted s ha

/-! ### Wired operands -/

/-- With `L ≥ 1` a cycle without reset shows on `out_hi` what its wires carry (R21, R23, R106). -/
theorem State.cycle_outHi (s : State) (o : Option Word) (hl : s.cfg.latency ≠ 0) :
    (s.cycle o).outHi = s.presentHi := by
  rw [State.outHi, State.cycle_out, State.shown_pos s o hl]
  rfl

theorem eq_of_readWord {hi a : Word} {d : WordDrive} (h : readWord hi d = some a) :
    (d = .outHi → a = hi) ∧ (∀ v, d = .value v → a = v) := by
  constructor
  · rintro rfl
    exact (Option.some.inj h).symm
  · rintro v rfl
    exact (Option.some.inj h).symm

/-- The effective select is the wired bit or the driven one, or the tied constant (R24, R106). -/
theorem eq_of_selEff_readSel {k : Kind} {hi : Word} {d : SelDrive} {e : Bool}
    (h : selEff k (readSel hi d) = some e) :
    (k = .unified → (∀ b, d = .outHiBit b → e = hi.getLsbD b.val) ∧ ∀ v, d = .value v → e = v) ∧
      (k = .signedOnly → e = true) ∧ (k = .unsignedOnly → e = false) := by
  cases k with
  | unified =>
    refine ⟨fun _ => ⟨?_, ?_⟩, nofun, nofun⟩
    · rintro b rfl
      exact (Option.some.inj h).symm
    · rintro v rfl
      exact (Option.some.inj h).symm
  | signedOnly => exact ⟨nofun, fun _ => (Option.some.inj h).symm, nofun⟩
  | unsignedOnly => exact ⟨nofun, nofun, fun _ => (Option.some.inj h).symm⟩

/-- Settles O36: the ports are sampled while `out_hi` shows `presentHi`, and the operation sampled
enters `E[1]`. -/
theorem chainedOperandIsShown : Obligations.ChainedOperandIsShown := by
  intro s p xs hl hs hrst hvalid hA hB hSel
  have hl' : s.cfg.latency ≠ 0 := by omega
  obtain ⟨q, hq⟩ : ∃ q, samplePorts s.cfg s.presentHi p = some q := by
    rw [← Option.ne_none_iff_exists', Ne, samplePorts_eq_none_iff]
    simpa [hvalid, hrst, hA, hB] using hSel
  obtain ⟨hqr, hqv, hqsel, hqa, hqb⟩ := samplePorts_some _ _ _ _ hq
  rw [if_neg hl', hrst] at hqr
  have hqrst : q.rst = false := (Option.some.inj hqr).symm
  rw [hvalid] at hqv
  have hqvalid : q.valid = true := (Option.some.inj hqv).symm
  have hstep : step s = .next ((s.withStream xs).cycle (some (mulh q.sel q.a q.b))) := by
    simp [step_of_sample s p q xs hs hq, PortSample.result, hl', hqrst, hqvalid]
  have hhi := State.cycle_outHi (s.withStream xs) (some (mulh q.sel q.a q.b)) hl'
  refine ⟨_, q.sel, q.a, q.b, hstep, State.cycle_stage_one _ _ hl', ?_⟩
  obtain ⟨haWire, haValue⟩ := eq_of_readWord hqa
  obtain ⟨hbWire, hbValue⟩ := eq_of_readWord hqb
  rw [hhi]
  exact ⟨haWire, haValue, hbWire, hbValue, eq_of_selEff_readSel hqsel⟩

end Sys2Proof.Machine
end

section
/-! The texts that are command words (R44): 33 digits, of which the first says whether the number
fits 129 bits. -/

namespace Sys2Proof.Machine
open Sys2Proof

theorem hexDigit_lt {c : Char} {d : Nat} (h : hexDigit c = some d) : d < 16 := by
  unfold hexDigit at h
  split_ifs at h <;> cases h <;> omega

/-- Of all characters only `0` and `1` are digits below 2. -/
theorem hexDigit_lt_two_iff {c : Char} {d : Nat} (h : hexDigit c = some d) :
    d < 2 ↔ c = '0' ∨ c = '1' := by
  constructor
  · intro hd
    have hc : c.toNat = 48 ∨ c.toNat = 49 := by
      unfold hexDigit at h
      split_ifs at h <;> cases h <;> omega
    obtain hc | hc := hc
    · exact .inl (Char.toNat_inj.mp hc)
    · exact .inr (Char.toNat_inj.mp hc)
  · rintro (rfl | rfl) <;> cases h <;> decide

theorem hexValue_cons_of_digit {c : Char} {d : Nat} (h : hexDigit c = some d) (acc : Nat)
    (cs : List Char) : hexValue acc (c :: cs) = hexValue (16 * acc + d) cs := by
  simp only [hexValue, h]

/-- A text writes a number exactly when its characters are all digits. -/
theorem exists_hexValue_iff (acc : Nat) (cs : List Char) :
    (∃ n, hexValue acc cs = some n) ↔ ∀ c ∈ cs, (hexDigit c).isSome = true := by
  induction cs generalizing acc with
  | nil => simp [hexValue]
  | cons c cs ih =>
    rw [List.forall_mem_cons]
    cases hd : hexDigit c with
    | none => simp [hexValue, hd]
    | some d => simp [hexValue_cons_of_digit hd, ih]

/-- Digits written after those of `acc` are its low ones. -/
theorem hexValue_bounds {acc n : Nat} {cs : List Char} (h : hexValue acc cs = some n) :
    acc * 16 ^ cs.length ≤ n ∧ n < (acc + 1) * 16 ^ cs.length := by
  induction cs generalizing acc with
  | nil =>
    cases h
    simp
  | cons c cs ih =>
    cases hd : hexDigit c with
    | none => simp [hexValue, hd] at h
    | some d =>
      rw [hexValue_cons_of_digit hd] at h
      have hlt := hexDigit_lt hd
      obtain ⟨hlo, hhi⟩ := ih h
      have hacc := Nat.mul_le_mul_right (16 ^ cs.length) (show 16 * acc ≤ 16 * acc + d by omega)
      have hacc' := Nat.mul_le_mul_right (16 ^ cs.length)
        (show 16 * acc + d + 1 ≤ 16 * acc + 16 by omega)
      rw [List.length_cons, pow_succ]
      constructor <;> linarith

/-- A number of 33 digits fits 129 bits exactly when the first is 0 or 1 (R44). -/
theorem lt_wordCount_iff {n : Nat} {cs : List Char} (hlen : cs.length = 33)
    (h : hexValue 0 cs = some n) :
    n < wordCount ↔ cs.head? = some '0' ∨ cs.head? = some '1' := by
  cases cs with
  | nil => cases hlen
  | cons c cs =>
    have hlen' : cs.length = 32 := Nat.succ.inj hlen
    cases hd : hexDigit c with
    | none => simp [hexValue, hd] at h
    | some d =>
      rw [hexValue_cons_of_digit hd, Nat.mul_zero, Nat.zero_add] at h
      obtain ⟨hlo, hhi⟩ := hexValue_bounds h
      rw [hlen'] at hlo hhi
      rw [List.head?_cons, Option.some_inj, Option.some_inj, ← hexDigit_lt_two_iff hd,
        wordCount_eq]
      omega

theorem wordOfText_eq_ok_iff (cs : List Char) (n : Nat) :
    wordOfText cs = .ok n ↔ cs.length = 33 ∧ hexValue 0 cs = some n ∧ n < wordCount := by
  unfold wordOfText
  by_cases hlen : cs.length = 33
  · rw [if_pos hlen]
    cases hexValue 0 cs with
    | none => simp
    | some m =>
      simp only [hlen, true_and, Option.some_inj]
      split_ifs with hm
      · rw [Except.ok.injEq]
        exact ⟨fun h => ⟨h, h ▸ hm⟩, And.left⟩
      · simp only [false_iff]
        rintro ⟨rfl, hn⟩
        exact hm hn
  · simp [hlen]

/-- Every number of 129 bits is the word of an operation (R45). -/
theorem exists_encodeWord_eq {n : Nat} (h : n < 2 ^ 129) : ∃ i, encodeWord i = n :=
  ⟨decode (BitVec.ofNat 129 n),
    by rw [encodeWord, encodeOfDecode, BitVec.toNat_ofNat, Nat.mod_eq_of_lt h]⟩

theorem decodeWord_eq_ok_iff (n : Nat) (i : Instr) : decodeWord n = .ok i ↔ n = encodeWord i := by
  constructor
  · intro h
    by_cases hn : n < 2 ^ 129
    · obtain ⟨j, rfl⟩ := exists_encodeWord_eq hn
      rw [decodeWord_encodeWord] at h
      cases h
      rfl
    · rw [decodeWord_tooWide n hn] at h
      cases h
  · rintro rfl
    exact decodeWord_encodeWord i

/-- A text is an operation's exactly when its 33 digits write the operation's number. -/
theorem decodeText_eq_ok_iff (cs : List Char) (i : Instr) :
    decodeText cs = .ok i ↔
      cs.length = 33 ∧ hexValue 0 cs = some (encodeWord i) ∧ encodeWord i < wordCount := by
  rw [← wordOfText_eq_ok_iff, decodeText]
  cases wordOfText cs with
  | error e => simp
  | ok n => rw [Except.ok.injEq, decodeWord_eq_ok_iff]

/-- Settles O5: the digits write a number, and the first says whether it is a word's. -/
theorem commandTextAccepted : Obligations.CommandTextAccepted := by
  intro cs
  simp only [decodeText_eq_ok_iff]
  refine ⟨⟨?_, ?_⟩, fun i ⟨_, hv, _⟩ => hv⟩
  · rintro ⟨i, hlen, hv, hn⟩
    exact ⟨hlen, (exists_hexValue_iff 0 cs).mp ⟨_, hv⟩, (lt_wordCount_iff hlen hv).mp hn⟩
  · rintro ⟨hlen, hdigits, hfirst⟩
    obtain ⟨n, hv⟩ := (exists_hexValue_iff 0 cs).mpr hdigits
    have hn := (lt_wordCount_iff hlen hv).mpr hfirst
    obtain ⟨i, rfl⟩ := exists_encodeWord_eq (wordCount_eq ▸ hn)
    exact ⟨i, hlen, hv, hn⟩

end Sys2Proof.Machine
end
